-- ==== Sys2Proof/Word.lean ====
section
/-! DEFINITION. The word types of the lin_ccd CORE (00_scope.md section 4): the 12-bit Sample, the byte of the dump frame,
and the word that holds a selector word or a wire-format word, right-aligned. -/

namespace Sys2Proof

/-- A Sample: "a 12-bit unsigned integer" (R11, `SAMPLE_BITS` = 12). -/
abbrev Sample := BitVec 12

/-- One byte of the dump frame (R62). -/
abbrev Byte := BitVec 8

/-- A selector word (R68 to R71) or a wire-format word (R60, R63), right-aligned in 16 bits. -/
abbrev Word := BitVec 16

/-- A word address of the LineBuffer: 7 bits (R40, R51). -/
abbrev WordAddr := BitVec 7

end Sys2Proof
end

