-- ==== Sys2Proof/Config.lean ====
section
/-! DEFINITION. What an implementation fixes (00_scope.md section 4) and the free values of a reset cycle (R170). -/

namespace Sys2Proof

/-- `ADC_VARIANT`: the two revisions of the sampler (decision D5, conflict C3). -/
inductive Variant where
  | a  -- continuous free-run: 16 CONVERTING cycles, no DONE cycle
  | b  -- triggered windowed: 16 CONVERTING cycles and one DONE cycle
  deriving DecidableEq, Repr

/-- The open build-time parameters (92_eei_decisions.md, "Open parameters in one list").
They cannot change while the core runs (R74). -/
structure Config where
  /-- `ADC_VARIANT` (decision D5). -/
  adcVariant : Variant
  /-- `EOL_WRITE`: also write on a valid pulse at `pix = 128` (decision D12, R113). -/
  eolWrite : Bool
  /-- `HAS_START_PULSE` (decision D16, R109). -/
  hasStartPulse : Bool
  /-- `TAU_W`, the width of `tau` and `tau_cnt` (decision D14). -/
  tauW : Nat
  /-- `SYNC_BYTE` (decision D24, R28). -/
  syncByte : Byte
  deriving DecidableEq, Repr

namespace Config

/-- The defaults of 00_scope.md section 4: B, false, true, 16, 0x42. -/
def default : Config :=
  { adcVariant := .b, eolWrite := false, hasStartPulse := true, tauW := 16, syncByte := 0x42 }

/-- `N_PIX`: the depth of the LineBuffer. -/
def nPix : Nat := 128

/-- `T_CS`: cycles chip-select is low per conversion. -/
def tCs : Nat := 16

/-- `SAMPLE_BITS`. -/
def sampleBits : Nat := 12

/-- `LEAD_BITS`: bit times before the first data bit (decision D6). -/
def leadBits : Nat := tCs - sampleBits

/-- `BYTES_PER_WORD`. -/
def bytesPerWord : Nat := 2

/-- `T_SETTLE`: 0 in variant A, 1 in variant B. -/
def tSettle (c : Config) : Nat :=
  match c.adcVariant with
  | .a => 0
  | .b => 1

/-- `W`, the conversion window: 16 in variant A, 17 in variant B (R91). -/
def window (c : Config) : Nat := tCs + c.tSettle

/-- The number of bytes of a dump frame: 257 (R62). -/
def frameBytes : Nat := 1 + bytesPerWord * nPix

/-- FREE VALUE: what `sr` holds after a reset cycle, drawn afresh in each (R170, U3). -/
opaque anySr : Nat → BitVec 12

/-- FREE VALUE: what `sample` holds after a reset cycle, drawn afresh in each (R170, U3). -/
opaque anySample : Nat → Sample

/-- FREE VALUE: what `tx_data` holds after a reset cycle, drawn afresh in each (R170, U3). -/
opaque anyTxData : Nat → Byte

end Config

end Sys2Proof
end

