-- ==== Sys2Proof/Syntax.lean ====
section
/-! DEFINITION. The operations of the CORE: one constructor per row of spec/opcode_table.json (R72), the 28 operations of the
four engines and the 4 wire-format rows, and the formats their words are written in (R60 to R63, R68 to R71). -/

namespace Sys2Proof

/-- The formats of the opcode table. A word has a meaning only in its format: the five selector words are five separate
decoders (R68 to R71), and a byte of the dump frame is told apart by its position in the frame (R62). -/
inductive Format where
  | asel                  -- AdcSampler selector, 4 bits (R68)
  | qsel                  -- PixelSequencer selector, 5 bits (R69)
  | wsel                  -- LineBuffer write-side selector, 1 bit (R70)
  | rsel                  -- LineBuffer read-side selector, 1 bit (R70)
  | dsel                  -- FrameDumper selector, 8 bits (R71)
  | adcFrame              -- the ADC serial frame, 16 bit times (R60)
  | dumpByte (pos : Nat)  -- the byte at position `pos` of the dump frame (R62)
  deriving DecidableEq, Repr

/-- The operations. A selector bit written `x` in the table takes no part in the selection and is no operand. -/
inductive Instr where
  -- AdcSampler (41_adc_sampler.md)
  | adcHold            -- ADC.HOLD, R81
  | adcStart           -- ADC.START, R82
  | adcShift           -- ADC.SHIFT, R83
  | adcCapture         -- ADC.CAPTURE, R84, variant B
  | adcCaptureRestart  -- ADC.CAPTURE_RESTART, R85, variant A
  | adcCaptureStop     -- ADC.CAPTURE_STOP, R86, variant A
  | adcDoneRestart     -- ADC.DONE_RESTART, R87, variant B
  | adcDoneStop        -- ADC.DONE_STOP, R88, variant B
  -- PixelSequencer (42_pixel_sequencer.md)
  | seqIdle            -- SEQ.IDLE, R100
  | seqTrigger         -- SEQ.TRIGGER, R101
  | seqExposeWait      -- SEQ.EXPOSE_WAIT, R102
  | seqAdvance         -- SEQ.ADVANCE, R103
  | seqEolTick         -- SEQ.EOL_TICK, R104
  | seqEolExit         -- SEQ.EOL_EXIT, R105
  -- LineBuffer (43_line_buffer.md)
  | bufNowrite         -- BUF.NOWRITE, R121
  | bufWrite           -- BUF.WRITE, R120
  | bufReadHi          -- BUF.READ_HI, R122
  | bufReadLo          -- BUF.READ_LO, R123
  -- FrameDumper (44_frame_dumper.md)
  | dmpIdle            -- DMP.IDLE, R130
  | dmpTrigger         -- DMP.TRIGGER, R131
  | dmpSync            -- DMP.SYNC, R132
  | dmpSendHi          -- DMP.SEND_HI, R133
  | dmpSendLo          -- DMP.SEND_LO, R134
  | dmpSendLast        -- DMP.SEND_LAST, R135
  | dmpWaitHold        -- DMP.WAIT_HOLD, R136
  | dmpAcceptNext      -- DMP.ACCEPT_NEXT, R137
  | dmpAcceptLast      -- DMP.ACCEPT_LAST, R138
  | dmpDone            -- DMP.DONE, R139
  -- the two wire formats (30_encoding.md sections 1 and 2)
  | wireAdcFrame (lead : BitVec 4) (data : Sample)  -- WIRE.ADC_FRAME, R60, R61
  | wireDumpSync                                    -- WIRE.DUMP_SYNC, R62
  | wireDumpHi (h : BitVec 4)                       -- WIRE.DUMP_HI, R63
  | wireDumpLo (l : BitVec 8)                       -- WIRE.DUMP_LO, R63
  deriving DecidableEq, Repr

/-- The format a row of the table is written in. For a byte of the dump frame this is the first position at which it can
stand: 0, 1 and 2 (R62). -/
def Instr.format : Instr → Format
  | .adcHold => .asel
  | .adcStart => .asel
  | .adcShift => .asel
  | .adcCapture => .asel
  | .adcCaptureRestart => .asel
  | .adcCaptureStop => .asel
  | .adcDoneRestart => .asel
  | .adcDoneStop => .asel
  | .seqIdle => .qsel
  | .seqTrigger => .qsel
  | .seqExposeWait => .qsel
  | .seqAdvance => .qsel
  | .seqEolTick => .qsel
  | .seqEolExit => .qsel
  | .bufNowrite => .wsel
  | .bufWrite => .wsel
  | .bufReadHi => .rsel
  | .bufReadLo => .rsel
  | .dmpIdle => .dsel
  | .dmpTrigger => .dsel
  | .dmpSync => .dsel
  | .dmpSendHi => .dsel
  | .dmpSendLo => .dsel
  | .dmpSendLast => .dsel
  | .dmpWaitHold => .dsel
  | .dmpAcceptNext => .dsel
  | .dmpAcceptLast => .dsel
  | .dmpDone => .dsel
  | .wireAdcFrame _ _ => .adcFrame
  | .wireDumpSync => .dumpByte 0
  | .wireDumpHi _ => .dumpByte 1
  | .wireDumpLo _ => .dumpByte 2

/-- Whether a row's word may stand in a format: its own selector, or any frame position of its class (R62). -/
def Instr.fitsFormat (i : Instr) (f : Format) : Bool :=
  match i, f with
  | .wireDumpSync, .dumpByte p => p == 0
  | .wireDumpHi _, .dumpByte p => p % 2 == 1 && decide (p ≤ 256)
  | .wireDumpLo _, .dumpByte p => p % 2 == 0 && decide (1 ≤ p ∧ p ≤ 256)
  | i, f => i.format == f

end Sys2Proof
end

