-- ==== Sys2Proof/WellFormed.lean ====
section
/-! DEFINITION. Which rows of the operation map are valid for a configuration (R72: 5 AdcSampler rows in variant A, 6 in
variant B). Every other field of an operation is a bit vector of the table's width, so nothing else can be ill-formed. -/

namespace Sys2Proof

/-- The table's "variants" column (R72): ADC.CAPTURE, ADC.DONE_RESTART and ADC.DONE_STOP exist in variant B only,
ADC.CAPTURE_RESTART and ADC.CAPTURE_STOP in variant A only. -/
def wellFormed (c : Config) (i : Instr) : Bool :=
  match i with
  | .adcCapture => c.adcVariant == .b
  | .adcCaptureRestart => c.adcVariant == .a
  | .adcCaptureStop => c.adcVariant == .a
  | .adcDoneRestart => c.adcVariant == .b
  | .adcDoneStop => c.adcVariant == .b
  | _ => true

end Sys2Proof
end

