-- ==== Sys2Proof/Decode.lean ====
section
/-! DEFINITION. The operation map as match and mask rows (R72), the decoder of the five selector words and of the two wire
formats, total and refusing by name, and the encoder, both written from 30_encoding.md. -/

namespace Sys2Proof

/-! ## Bits and bytes of the wire formats -/

/-- hi(w) = zext_8(w[11:8]) (R63, R205). -/
def hiByte (w : Sample) : Byte := (w.extractLsb' 8 4).setWidth 8

/-- lo(w) = w[7:0] (R63, R205). -/
def loByte (w : Sample) : Byte := w.extractLsb' 0 8

/-- The word a receiver rebuilds, w = {hi[3:0], lo} (R58, R64, R205). -/
def wordOf (hi lo : Byte) : Sample := hi.extractLsb' 0 4 ++ lo

/-- The bits of an ADC frame in order of arrival: bit time `p` carries bit `15 - p` of the word (R60). -/
def frameBits (w : Word) : List Bool := (List.range 16).map (fun p => w.getLsbD (15 - p))

/-! ## The operation map -/

/-- One row of the tables of R72: selected when `(SEL and mask) = match`. -/
structure Row where
  op : Instr
  fmt : Format
  mtch : Word
  mask : Word
  deriving DecidableEq, Repr

/-- AdcSampler rows, selector {adc_state, p15, convert} (R68, R72). -/
def aselRows : List Row :=
  [ ⟨.adcHold, .asel, 0x0, 0xD⟩,
    ⟨.adcStart, .asel, 0x1, 0xD⟩,
    ⟨.adcShift, .asel, 0x4, 0xE⟩,
    ⟨.adcCapture, .asel, 0x6, 0xE⟩,
    ⟨.adcCaptureRestart, .asel, 0x7, 0xF⟩,
    ⟨.adcCaptureStop, .asel, 0x6, 0xF⟩,
    ⟨.adcDoneRestart, .asel, 0x9, 0xD⟩,
    ⟨.adcDoneStop, .asel, 0x8, 0xD⟩ ]

/-- PixelSequencer rows, selector {zone, scan_trigger, adc_valid, tau_hit} (R69, R72). -/
def qselRows : List Row :=
  [ ⟨.seqIdle, .qsel, 0x00, 0x1C⟩,
    ⟨.seqTrigger, .qsel, 0x04, 0x1C⟩,
    ⟨.seqExposeWait, .qsel, 0x08, 0x1A⟩,
    ⟨.seqAdvance, .qsel, 0x0A, 0x1A⟩,
    ⟨.seqEolTick, .qsel, 0x10, 0x19⟩,
    ⟨.seqEolExit, .qsel, 0x11, 0x19⟩ ]

/-- LineBuffer write-side rows, selector wr_en (R70, R72). -/
def wselRows : List Row :=
  [ ⟨.bufNowrite, .wsel, 0x0, 0x1⟩, ⟨.bufWrite, .wsel, 0x1, 0x1⟩ ]

/-- LineBuffer read-side rows, selector byte_idx (R70, R72). -/
def rselRows : List Row :=
  [ ⟨.bufReadHi, .rsel, 0x0, 0x1⟩, ⟨.bufReadLo, .rsel, 0x1, 0x1⟩ ]

/-- FrameDumper rows, selector {dmp_state, dump_trigger, sink_ready, last_byte_sent, byte_idx, w127} (R71, R72). -/
def dselRows : List Row :=
  [ ⟨.dmpIdle, .dsel, 0x00, 0xF0⟩,
    ⟨.dmpTrigger, .dsel, 0x10, 0xF0⟩,
    ⟨.dmpSync, .dsel, 0x20, 0xE0⟩,
    ⟨.dmpSendHi, .dsel, 0x40, 0xE2⟩,
    ⟨.dmpSendLo, .dsel, 0x42, 0xE3⟩,
    ⟨.dmpSendLast, .dsel, 0x43, 0xE3⟩,
    ⟨.dmpWaitHold, .dsel, 0x60, 0xE8⟩,
    ⟨.dmpAcceptNext, .dsel, 0x68, 0xEC⟩,
    ⟨.dmpAcceptLast, .dsel, 0x6C, 0xEC⟩,
    ⟨.dmpDone, .dsel, 0x80, 0xE0⟩ ]

/-- The 28 rows of the operation map (R72). -/
def opRows : List Row := aselRows ++ qselRows ++ wselRows ++ rselRows ++ dselRows

/-- The rows of one format; the wire formats have none here (R72). -/
def rowsOf : Format → List Row
  | .asel => aselRows
  | .qsel => qselRows
  | .wsel => wselRows
  | .rsel => rselRows
  | .dsel => dselRows
  | .adcFrame => []
  | .dumpByte _ => []

/-- `(SEL and mask) = match` (30_encoding.md section 4). -/
def Row.selectedBy (r : Row) (w : Word) : Bool := w &&& r.mask == r.mtch

/-- The number of bits of a word of the format (the table's "width"). -/
def formatWidth : Format → Nat
  | .asel => 4
  | .qsel => 5
  | .wsel => 1
  | .rsel => 1
  | .dsel => 8
  | .adcFrame => 16
  | .dumpByte _ => 8

/-! ## The decoder -/

/-- Why a word decodes to no operation. -/
inductive DecodeError where
  | tooWide           -- a bit is set above the format's width: no such word exists
  | reservedAdcState  -- adc_state = 0b11, or 0b10 in variant A (R65, R73)
  | reservedZone      -- zone = 0b11 (R67, R73)
  | reservedDmpState  -- dmp_state = 0b101, 0b110 or 0b111 (R66, R73)
  | noSuchRow         -- no row of the format (cannot happen for the 1-bit formats)
  | syncMismatch      -- frame position 0 does not hold SYNC_BYTE (R62, R64)
  | paddingSet        -- bits 7..4 of a high byte are not zero: not aligned to the frame (R77)
  | pastFrameEnd      -- a position above 256: the frame has 257 bytes (R62)
  | shortFrame        -- fewer bytes than a frame has, as a reset in mid-dump leaves them (R62, R171)
  deriving DecidableEq, Repr

/-- The name under which a word of a format that matches no row is rejected (R73). -/
def reservedError : Format → DecodeError
  | .asel => .reservedAdcState
  | .qsel => .reservedZone
  | .dsel => .reservedDmpState
  | _ => .noSuchRow

/-- A selector word: the row, valid for the configured variant, that it matches (R72). -/
def decodeSelector (c : Config) (f : Format) (w : Word) : Except DecodeError Instr :=
  match (rowsOf f).find? (fun r => wellFormed c r.op && r.selectedBy w) with
  | some r => .ok r.op
  | none => .error (reservedError f)

/-- A byte of the dump frame by its position (R62, R63, R64, R77). -/
def decodeDumpByte (c : Config) (pos : Nat) (b : Byte) : Except DecodeError Instr :=
  if pos = 0 then
    if b = c.syncByte then .ok .wireDumpSync else .error .syncMismatch
  else if 256 < pos then .error .pastFrameEnd
  else if pos % 2 = 1 then
    if b.extractLsb' 4 4 = 0 then .ok (.wireDumpHi (b.extractLsb' 0 4)) else .error .paddingSet
  else .ok (.wireDumpLo b)

/-- The decoder: total on every word of every format, refusing by name. Every ADC frame is legal (R77). -/
def decode (c : Config) (f : Format) (w : Word) : Except DecodeError Instr :=
  if 2 ^ formatWidth f ≤ w.toNat then .error .tooWide
  else match f with
    | .adcFrame => .ok (.wireAdcFrame (w.extractLsb' 12 4) (w.extractLsb' 0 12))
    | .dumpByte pos => decodeDumpByte c pos (w.setWidth 8)
    | f => decodeSelector c f w

/-! ## The encoder -/

/-- The word of an operation: its row's match value, every `x` bit 0 (R72); for the wire formats the frame or byte itself
(R60, R62, R63). -/
def encode (c : Config) : Instr → Word
  | .adcHold => 0x0
  | .adcStart => 0x1
  | .adcShift => 0x4
  | .adcCapture => 0x6
  | .adcCaptureRestart => 0x7
  | .adcCaptureStop => 0x6
  | .adcDoneRestart => 0x9
  | .adcDoneStop => 0x8
  | .seqIdle => 0x00
  | .seqTrigger => 0x04
  | .seqExposeWait => 0x08
  | .seqAdvance => 0x0A
  | .seqEolTick => 0x10
  | .seqEolExit => 0x11
  | .bufNowrite => 0x0
  | .bufWrite => 0x1
  | .bufReadHi => 0x0
  | .bufReadLo => 0x1
  | .dmpIdle => 0x00
  | .dmpTrigger => 0x10
  | .dmpSync => 0x20
  | .dmpSendHi => 0x40
  | .dmpSendLo => 0x42
  | .dmpSendLast => 0x43
  | .dmpWaitHold => 0x60
  | .dmpAcceptNext => 0x68
  | .dmpAcceptLast => 0x6C
  | .dmpDone => 0x80
  | .wireAdcFrame lead data => lead ++ data
  | .wireDumpSync => c.syncByte.setWidth 16
  | .wireDumpHi h => h.setWidth 16
  | .wireDumpLo l => l.setWidth 16

/-! ## The dump frame as a whole -/

/-- The byte serialisation B[0], B[1], … of a line of words (R41, R46). -/
def serialise (line : List Sample) : List Byte := line.flatMap (fun w => [hiByte w, loByte w])

/-- The dump frame of a line that does not change during the dump (R62, R143). -/
def frameOf (c : Config) (line : List Sample) : List Byte := c.syncByte :: serialise line

/-- Decode consecutive bytes of a frame from position `pos` on. -/
def decodeFrameFrom (c : Config) : Nat → List Byte → Except DecodeError (List Instr)
  | _, [] => .ok []
  | pos, b :: bs =>
    match decodeDumpByte c pos b, decodeFrameFrom c (pos + 1) bs with
    | .error e, _ => .error e
    | .ok _, .error e => .error e
    | .ok i, .ok is => .ok (i :: is)

/-- The words carried by a decoded frame: a high byte and the low byte after it make one word (R64). -/
def wordsOf : List Instr → List Sample
  | .wireDumpHi h :: .wireDumpLo l :: rest => (h ++ l) :: wordsOf rest
  | _ :: rest => wordsOf rest
  | [] => []

/-- A receiver that knows where the frame starts (R64). Not part of the core. -/
def receiveFrame (c : Config) (bytes : List Byte) : Except DecodeError (List Sample) :=
  if bytes.length < Config.frameBytes then .error .shortFrame
  else match decodeFrameFrom c 0 bytes with
  | .error e => .error e
  | .ok is => .ok (wordsOf is)

/-! ## The opcode table's words, without their format -/

/-- The formats in which a table word that comes with a number of bits only may be read, in the table's order (log entry 14,
DESIGN CHOICE). The table's rows of 1, 4, 5 and 8 bits all fill one byte, and nothing in the byte names the engine. -/
def tableFormats : Nat → List Format
  | 1 => [.wsel, .rsel]
  | 4 => [.asel]
  | 5 => [.qsel]
  | 8 => [.asel, .qsel, .wsel, .rsel, .dsel, .dumpByte 0, .dumpByte 1, .dumpByte 2]
  | 16 => [.adcFrame]
  | _ => []

/-- What the decoder reads from a number in one format, with the default configuration (D5: variant B). -/
def decodeIn (w : Nat) (f : Format) : Option Instr :=
  if 2 ^ formatWidth f ≤ w then none
  else match decode Config.default f (BitVec.ofNat 16 w) with
    | .ok i => some i
    | .error _ => none

/-- The instruction the decoder reads from a table word: in the first of its formats that has a row for it (log entry 14). -/
def decodeTableWord (nbits w : Nat) : Option Instr := (tableFormats nbits).findSome? (decodeIn w)

end Sys2Proof
end

