-- ==== Sys2Proof/Machine/State.lean ====
section
/-! DEFINITION. The state of the CORE (10_state.md): the registers by the engine that owns them (R158), the LineBuffer, the
input ports of the cycle, and the model's own fields (the stimulus to come, the cycle number, the build-time parameters).
Plain data. -/

namespace Sys2Proof.Machine

/-- `adc_state` (R13): the reserved code 3 is not representable (R73). -/
inductive AdcState where
  | idle
  | converting
  | done
  deriving DecidableEq, Repr

/-- `dmp_state` (R16): the reserved codes 5, 6, 7 are not representable (R73). -/
inductive DmpState where
  | idle
  | sync
  | send
  | wait
  | done
  deriving DecidableEq, Repr

/-- The registers AdcSampler owns (R158). -/
structure AdcRegs where
  /-- `adc_state` (R13). -/
  state : AdcState
  /-- `phase[4:0]` (R14). -/
  phase : BitVec 5
  /-- `sr[11:0]` (R10). -/
  sr : BitVec 12
  /-- `sample[11:0]` (R11). -/
  sample : Sample
  /-- `adc_valid` (R19). -/
  valid : Bool
  deriving DecidableEq, Repr

/-- The registers PixelSequencer owns (R158). -/
structure SeqRegs where
  /-- `pix[7:0]` (R15); 129..255 are reserved and refused (R73). -/
  pix : BitVec 8
  /-- `tau_cnt` (R27), a number below 2^TAU_W: every write goes through `fitTau` (log entry 15). -/
  tauCnt : Nat
  /-- `trig_latch` (R20). -/
  trigLatch : Bool
  deriving DecidableEq, Repr

/-- The registers FrameDumper owns (R158). -/
structure DmpRegs where
  /-- `dmp_state` (R16). -/
  state : DmpState
  /-- `word_idx[6:0]` (R17). -/
  wordIdx : WordAddr
  /-- `byte_idx[0:0]` (R18): 0 the high byte, 1 the low byte. -/
  byteIdx : BitVec 1
  /-- `last_byte_sent` (R21). -/
  lastByteSent : Bool
  /-- `tx_data[7:0]` (R12). -/
  txData : Byte
  deriving DecidableEq, Repr

/-- The six input ports, one value each per cycle (R30, R1). -/
structure Inputs where
  /-- `rst` (R26). -/
  rst : Bool
  /-- `scan_trigger` (R24). -/
  scanTrigger : Bool
  /-- `dump_trigger` (R25). -/
  dumpTrigger : Bool
  /-- `tau` (R23), a number below 2^TAU_W: the pins take a value through `onPins` (log entry 15). -/
  tau : Nat
  /-- `sdata`. -/
  sdata : Bool
  /-- `sink_ready`. -/
  sinkReady : Bool
  deriving DecidableEq, Repr

/-- The LineBuffer, as the pairs (byte address, byte) of its serialisation (R41): word `i` is bytes `2*i` and `2*i + 1`
(log entry 8). An address not listed reads as `unlistedByte`. -/
abbrev Memory := List Host.Cell

/-- The whole machine. -/
structure State where
  adc : AdcRegs
  seq : SeqRegs
  mem : Memory
  dmp : DmpRegs
  /-- The values of the input ports in this cycle. -/
  inp : Inputs
  /-- MODEL'S OWN: the input values of the cycles to come, the next one first (log entries 3 and 4). -/
  stim : List Inputs
  /-- MODEL'S OWN: the number of this cycle (R1), which indexes the free values of R170 (log entry 16). -/
  cycle : Nat
  /-- The build-time parameters, which no step changes (R35, R74; log entry 2). -/
  cfg : Config
  deriving DecidableEq, Repr

/-- No operation can fault (R150): the core raises no exception, sets no error flag and has no error output, so no
reason exists. The type is closed and empty; that is safe, since the model never claims a run ended in an error. -/
inductive Fault where
  deriving DecidableEq, Repr

/-- Why the model gives no next state. -/
inductive Refusal where
  /-- Raised by an arm of `exec` whose operation has no meaning in the model yet. Safe: nothing is claimed of it. -/
  | notModelled (mnemonic : String)
  /-- Raised by the PixelSequencer's selection when `tau = 0` in a cycle with `pix = 128` and `rst = 0`: "no next state is
  defined" (U1, R151, R203). Safe: the model stops where the spec refuses. -/
  | tauZero
  /-- Raised for a start state that breaks the invariants of R32 (R73, U5): "must not give it a next state". Safe: no run
  from reset reaches one. -/
  | illegalState
  /-- Raised by `exec` for an operation whose selector the state does not hold (R72; log entry 11). Safe: `step` asks only
  for the operations it has selected. -/
  | notSelected
  /-- Raised by `exec` in a cycle with `rst = 1`, in which "no other rule applies" (R5, R170; log entry 11). Safe: `step`
  performs the reset there. -/
  | resetCycle
  /-- Raised by the selection when a selector word matches no row (R73). Safe: a state that keeps R32 has no such word. -/
  | reservedSelector
  deriving DecidableEq, Repr

/-- The ports before the first `set` of a trace: every port 0, and `tau` 128 (R75; log entry 9). -/
def Inputs.quiet : Inputs :=
  { rst := false, scanTrigger := false, dumpTrigger := false, tau := 128, sdata := false, sinkReady := false }

/-- The machine right after reset (R33), with the default parameters and nothing in the trace. `sr`, `sample` and `tx_data`
are `any` there: 0 here (log entry 5, DESIGN CHOICE); the LineBuffer lists nothing (log entry 7, DESIGN CHOICE). -/
def State.reset : State :=
  { adc := { state := .idle, phase := 0, sr := 0, sample := 0, valid := false }
    seq := { pix := 0, tauCnt := 0, trigLatch := false }
    mem := []
    dmp := { state := .idle, wordIdx := 0, byteIdx := 0, lastByteSent := false, txData := 0 }
    inp := Inputs.quiet
    stim := []
    cycle := 0
    cfg := Config.default }

end Sys2Proof.Machine
end

