-- ==== Sys2Proof/Machine/Ops.lean ====
section
/-! DEFINITION. The named operations over the LineBuffer and the registers: the two ports (R43, R44), the shift (R80), the
increments (R201), the field updates by owner (R158), the reset edge (R170) and the passing of a cycle (R1). The core has no
exception to take and none to return from (R150, R155, R156); what overrides every operation is the reset edge (R5). -/

namespace Sys2Proof.Machine

/-! ## The LineBuffer -/

/-- What a byte no write has reached reads as: 0 (log entry 7, DESIGN CHOICE; the spec says `any`, R57). -/
def unlistedByte : Byte := 0

/-- The byte at byte address `k` of the serialisation (R41). -/
def readByte : Memory → Nat → Byte
  | [], _ => unlistedByte
  | (a, v) :: m, k => if a = k then v else readByte m k

/-- Store one byte and keep the canonical form: addresses rising, no entry that equals what an unlisted address reads as. -/
def writeByte : Memory → Nat → Byte → Memory
  | [], k, v => if v = unlistedByte then [] else [(k, v)]
  | (a, x) :: m, k, v =>
    if a < k then (a, x) :: writeByte m k v
    else if a = k then (if v = unlistedByte then m else (k, v) :: m)
    else if v = unlistedByte then (a, x) :: m
    else (k, v) :: (a, x) :: m

/-- `MemRead(i, 12)`: the whole word, as it stands in this cycle (R44). -/
def readWord (m : Memory) (i : WordAddr) : Sample :=
  wordOf (readByte m (2 * i.toNat)) (readByte m (2 * i.toNat + 1))

/-- `MemWrite(i, 12, v)`: the whole word and no other (R43, R49). -/
def writeWord (m : Memory) (i : WordAddr) (v : Sample) : Memory :=
  writeByte (writeByte m (2 * i.toNat) (hiByte v)) (2 * i.toNat + 1) (loByte v)

/-- The canonical form of the part of a memory at byte addresses from `lo` on: addresses rising and below 256, no unlisted
value listed, and no padding bit set in a high byte (R41, R46). -/
def memWfFrom (lo : Nat) : Memory → Bool
  | [] => true
  | (a, v) :: m =>
    decide (lo ≤ a) && decide (a < 256) && v != unlistedByte && (a % 2 == 1 || decide (v.toNat < 16)) && memWfFrom (a + 1) m

/-- The canonical form of the LineBuffer. -/
def Memory.wf (m : Memory) : Bool := memWfFrom 0 m

/-- The 128 words in index order (R40). -/
def lineOf (m : Memory) : List Sample := (List.range Config.nPix).map (fun i => readWord m (BitVec.ofNat 7 i))

/-! ## Register arithmetic -/

/-- The one shift: `{sr[10:0], bit}` (R80, R204). -/
def shiftIn (sr : BitVec 12) (bit : Bool) : BitVec 12 := sr.extractLsb' 0 11 ++ BitVec.ofBool bit

/-- A value kept in the `TAU_W` bits of `tau` and `tau_cnt` (R23, R27). No reachable increment is cut (R201). -/
def fitTau (c : Config) (n : Nat) : Nat := n % 2 ^ c.tauW

/-! ## Field updates, by owner (R158) -/

/-- Replace the registers AdcSampler owns. -/
def State.setAdc (s : State) (a : AdcRegs) : State := { s with adc := a }

/-- Replace the registers PixelSequencer owns. -/
def State.setSeq (s : State) (q : SeqRegs) : State := { s with seq := q }

/-- Replace the LineBuffer's contents. -/
def State.setMem (s : State) (m : Memory) : State := { s with mem := m }

/-- Replace the registers FrameDumper owns. -/
def State.setDmp (s : State) (d : DmpRegs) : State := { s with dmp := d }

/-! ## The clock -/

/-- The values the pins take from a line of the stimulus: `tau` has `TAU_W` wires (R23). -/
def onPins (c : Config) (i : Inputs) : Inputs := { i with tau := fitTau c i.tau }

/-- The cycle passes: the ports take the next values of the stimulus, or hold where none are left (R75; log entry 4). -/
def tick (s : State) : State :=
  match s.stim with
  | [] => { s with cycle := s.cycle + 1 }
  | i :: rest => { s with inp := onPins s.cfg i, stim := rest, cycle := s.cycle + 1 }

/-- The reset edge (R170): every control register at its reset value; `sr`, `sample` and `tx_data` drawn afresh (free
values, log entry 6); no LineBuffer word changes, whatever the write port shows. -/
def resetEdge (s : State) : State :=
  { s with
    adc := { state := .idle, phase := 0, sr := Config.anySr s.cycle, sample := Config.anySample s.cycle, valid := false }
    seq := { pix := 0, tauCnt := 0, trigLatch := false }
    dmp := { state := .idle, wordIdx := 0, byteIdx := 0, lastByteSent := false, txData := Config.anyTxData s.cycle } }

end Sys2Proof.Machine
end

