-- ==== Sys2Proof/Machine/Operands.lean ====
section
/-! DEFINITION. The operand forms: the two addressing modes of the LineBuffer and the byte select (43_line_buffer.md,
"Addressing modes"; R108, R141), the value entering the shift register (R80). -/

namespace Sys2Proof.Machine

/-- `wr_addr = (pix - 1) mod 128`, 7 bits (R108, R202). -/
def wrAddr (s : State) : WordAddr := (s.seq.pix - 1).setWidth 7

/-- `wr_data = sample` (R108). -/
def wrData (s : State) : Sample := s.adc.sample

/-- `rd_addr = word_idx` (R141). -/
def rdAddr (s : State) : WordAddr := s.dmp.wordIdx

/-- `rd_data = mem[rd_addr]`, combinational (R44). -/
def rdData (s : State) : Sample := readWord s.mem (rdAddr s)

/-- `rd_byte`: the byte of `rd_data` that `byte_idx` selects (R122, R123). -/
def rdByte (s : State) : Byte := if s.dmp.byteIdx = 0 then hiByte (rdData s) else loByte (rdData s)

/-- `sr_next = {sr[10:0], sdata}` of this cycle (R80). -/
def srNext (s : State) : BitVec 12 := shiftIn s.adc.sr s.inp.sdata

/-- The LineBuffer after this cycle's write port: the word written, whole (R43, R120). -/
def memAfterWrite (s : State) : Memory := writeWord s.mem (wrAddr s) (wrData s)

end Sys2Proof.Machine
end

