-- ==== Sys2Proof/Machine/Flags.lean ====
section
/-! DEFINITION. Guard bits, state codes, internal wires and output ports: every one-bit value the core computes, each a
function of the registers (R3, R22, R31) or, for the guards `tau_hit` and the selector bits, of registers and inputs. -/

namespace Sys2Proof.Machine

/-! ## State codes -/

/-- The code of `adc_state` (R65). -/
def AdcState.code : AdcState → BitVec 2
  | .idle => 0b00
  | .converting => 0b01
  | .done => 0b10

/-- The code of `dmp_state` (R66). -/
def DmpState.code : DmpState → BitVec 3
  | .idle => 0b000
  | .sync => 0b001
  | .send => 0b010
  | .wait => 0b011
  | .done => 0b100

/-- The zone of `pix`, 2 bits (R67). -/
def zone (s : State) : BitVec 2 :=
  if s.seq.pix.toNat = 0 then 0b00
  else if s.seq.pix.toNat ≤ 127 then 0b01
  else if s.seq.pix.toNat = 128 then 0b10
  else 0b11

/-! ## Guards and internal wires -/

/-- `convert`: 1 in exactly the cycles with `1 <= pix <= 127` (R107). -/
def convert (s : State) : Bool := decide (1 ≤ s.seq.pix.toNat ∧ s.seq.pix.toNat ≤ 127)

/-- `p15`: `phase = 15` (R68). -/
def p15 (s : State) : Bool := s.adc.phase == 15

/-- `tau_hit`: `tau_cnt + 1 >= tau`, compared without wrap (R69, R203). -/
def tauHit (s : State) : Bool := decide (s.inp.tau ≤ s.seq.tauCnt + 1)

/-- `w127`: `word_idx = 127` (R71). -/
def w127 (s : State) : Bool := s.dmp.wordIdx == 127

/-- `wr_en` (R108): `adc_valid` and (`1 <= pix <= 127`, or `EOL_WRITE` and `pix = 128`). -/
def wrEn (s : State) : Bool := s.adc.valid && (convert s || (s.cfg.eolWrite && s.seq.pix == 128))

/-! ## Output ports (R31) -/

/-- `cs_n`: 0 exactly while CONVERTING (R90). -/
def csN (s : State) : Bool := s.adc.state != .converting

/-- `sensor_start` (R109). -/
def sensorStart (s : State) : Bool := s.cfg.hasStartPulse && s.seq.trigLatch

/-- `sensor_clk = adc_valid` (R109). -/
def sensorClk (s : State) : Bool := s.adc.valid

/-- `sink_valid`: 1 exactly in WAIT (R22, R140). -/
def sinkValid (s : State) : Bool := s.dmp.state == .wait

/-- `done`: 1 exactly in DONE (R22, R139). -/
def donePulse (s : State) : Bool := s.dmp.state == .done

/-- The output ports of a cycle. The ninth port, `sclk`, is the clock itself and is not represented (R6). -/
structure Outputs where
  csN : Bool
  adcSample : Sample
  adcValid : Bool
  sensorStart : Bool
  sensorClk : Bool
  sinkData : Byte
  sinkValid : Bool
  done : Bool
  deriving DecidableEq, Repr

/-- The output ports as the Moore functions of R31. -/
def outputs (s : State) : Outputs :=
  { csN := csN s
    adcSample := s.adc.sample
    adcValid := s.adc.valid
    sensorStart := sensorStart s
    sensorClk := sensorClk s
    sinkData := s.dmp.txData
    sinkValid := sinkValid s
    done := donePulse s }

/-- The byte transferred to the sink in this cycle, if any (R142); `rst` does not undo it (R170). -/
def transfer (s : State) : Option Byte := if sinkValid s && s.inp.sinkReady then some s.dmp.txData else none

/-! ## The reachable states -/

/-- AdcSampler's part of R32: (a), (b), (f). -/
def adcLegal (v : Variant) (a : AdcRegs) : Bool :=
  (match a.state with
    | .idle => a.phase == 0
    | .converting => decide (a.phase.toNat ≤ 15)
    | .done => a.phase == 16 && v == .b) &&
  (!a.valid ||
    (match v with
      | .b => a.state == .done
      | .a => a.state != .done && a.phase == 0))

/-- PixelSequencer's part of R32: (c), (e). -/
def seqLegal (q : SeqRegs) : Bool := decide (q.pix.toNat ≤ 128) && (!q.trigLatch || q.pix == 1)

/-- FrameDumper's part of R32: (g); (d) holds by the type. -/
def dmpLegal (d : DmpRegs) : Bool := !d.lastByteSent || (d.wordIdx == 0 && d.byteIdx == 0)

/-- The invariants (a) to (g) of R32; a state that breaks one is refused (R73, U5). (h) follows from (c) and R108. -/
def legal (s : State) : Bool := adcLegal s.cfg.adcVariant s.adc && seqLegal s.seq && dmpLegal s.dmp

/-- Quiescent (R165). -/
def quiescent (s : State) : Bool :=
  s.adc.state == .idle && !s.adc.valid && s.seq.pix == 0 && !s.seq.trigLatch && s.dmp.state == .idle

end Sys2Proof.Machine
end

