-- ==== Sys2Proof/Machine/Fetch.lean ====
section
/-! DEFINITION. What stands for fetching an instruction: an engine forms its selector word from its state and guard bits
(R68 to R71) and the decoder names the operation it performs in this cycle (R72). And the guard every meaning passes. -/

namespace Sys2Proof.Machine

/-! ## The selector words -/

/-- `ASEL = {adc_state[1:0], p15, convert}` (R68). -/
def aselWord (s : State) : BitVec 4 := s.adc.state.code ++ BitVec.ofBool (p15 s) ++ BitVec.ofBool (convert s)

/-- `QSEL = {zone[1:0], scan_trigger, adc_valid, tau_hit}` (R69). -/
def qselWord (s : State) : BitVec 5 :=
  zone s ++ BitVec.ofBool s.inp.scanTrigger ++ BitVec.ofBool s.adc.valid ++ BitVec.ofBool (tauHit s)

/-- `WSEL = wr_en` (R70). -/
def wselWord (s : State) : BitVec 1 := BitVec.ofBool (wrEn s)

/-- `RSEL = byte_idx` (R70). -/
def rselWord (s : State) : BitVec 1 := s.dmp.byteIdx

/-- `DSEL = {dmp_state[2:0], dump_trigger, sink_ready, last_byte_sent, byte_idx, w127}` (R71). -/
def dselWord (s : State) : BitVec 8 :=
  s.dmp.state.code ++ BitVec.ofBool s.inp.dumpTrigger ++ BitVec.ofBool s.inp.sinkReady
    ++ BitVec.ofBool s.dmp.lastByteSent ++ s.dmp.byteIdx ++ BitVec.ofBool (w127 s)

/-- The selector word of a format, right-aligned; the wire formats have none. -/
def selectorWord (s : State) : Format → Option Word
  | .asel => some ((aselWord s).setWidth 16)
  | .qsel => some ((qselWord s).setWidth 16)
  | .wsel => some ((wselWord s).setWidth 16)
  | .rsel => some ((rselWord s).setWidth 16)
  | .dsel => some ((dselWord s).setWidth 16)
  | .adcFrame => none
  | .dumpByte _ => none

/-! ## Selection -/

/-- The configuration the spec refuses: `tau = 0` in a cycle with `pix = 128` (U1, R151, R203). -/
def tauRefused (s : State) : Bool := s.seq.pix == 128 && s.inp.tau == 0

/-- The operation an engine performs in this cycle (R72). -/
def select (s : State) (f : Format) : Except Refusal Instr :=
  if f = .qsel ∧ tauRefused s = true then .error .tauZero
  else match selectorWord s f with
    | none => .error .notSelected
    | some w =>
      match decode s.cfg f w with
      | .ok i => .ok i
      | .error _ => .error .reservedSelector

/-- The five operations of one cycle, one of each engine's tables (R72). -/
structure CycleOps where
  adc : Instr
  seq : Instr
  wr : Instr
  rd : Instr
  dmp : Instr
  deriving DecidableEq, Repr

/-- Select the operations of this cycle; a state that breaks R32 is refused (R73). -/
def fetch (s : State) : Except Refusal CycleOps :=
  if legal s = false then .error .illegalState
  else do
    let a ← select s .asel
    let q ← select s .qsel
    let w ← select s .wsel
    let r ← select s .rsel
    let d ← select s .dsel
    .ok { adc := a, seq := q, wr := w, rd := r, dmp := d }

/-! ## The guard of a meaning -/

/-- An operation is performed in a cycle with `rst = 0` (R5), from a state that keeps R32 (R73), where it is selected (R72;
log entry 11); then `eff` gives its writes. -/
def guarded (s : State) (sel : Except Refusal Unit) (eff : State → State) : Host.Outcome State Fault Refusal :=
  if s.inp.rst = true then .refused .resetCycle
  else if legal s = false then .refused .illegalState
  else match sel with
    | .error r => .refused r
    | .ok () => .next (eff s)

/-- Whether the state selects this operation. -/
def selected (op : Instr) (s : State) : Except Refusal Unit :=
  match select s op.format with
  | .error r => .error r
  | .ok i => if i = op then .ok () else .error .notSelected

/-- Perform an operation of the map. -/
def perform (op : Instr) (s : State) (eff : State → State) : Host.Outcome State Fault Refusal :=
  guarded s (selected op s) eff

/-- Perform a wire-format row where the wire stands at its place in the frame (log entry 13). -/
def performAt (here : Bool) (s : State) (eff : State → State) : Host.Outcome State Fault Refusal :=
  guarded s (if here = true then .ok () else .error .notSelected) eff

end Sys2Proof.Machine
end

