-- ==== Sys2Proof/Machine/Cycle.lean ====
section
/-! DEFINITION. Putting the five operations of a cycle together (R2), and placing an instruction where the next step
selects it. -/

namespace Sys2Proof.Machine

/-- The next state of the whole core: each register from the operation of the engine that owns it (R158), every operation
having read the cycle's own state (R2), and then the clock passes. -/
def mergeEngines (s a q w d : State) : State :=
  tick { s with adc := a.adc, seq := q.seq, mem := w.mem, dmp := d.dmp }

/-- Go on with the next state of an operation; a refusal or a fault is the answer. -/
def andThen (o : Host.Outcome State Fault Refusal) (f : State → Host.Outcome State Fault Refusal) :
    Host.Outcome State Fault Refusal :=
  match o with
  | .next s => f s
  | .refused r => .refused r
  | .fault e => .fault e

/-- All five operations of a cycle must answer a next state; the first that does not is the answer. The read side's
operation writes nothing (R50, R122, R123), so nothing of its state is taken. -/
def joinCycle (s : State) (a q w r d : Host.Outcome State Fault Refusal) : Host.Outcome State Fault Refusal :=
  andThen a fun sa => andThen q fun sq => andThen w fun sw => andThen r fun _ => andThen d fun sd =>
    .next (mergeEngines s sa sq sw sd)

/-! ## Placing an instruction (for `State.withFetchWord`; log entries 17 and 24)

The core fetches nothing: an operation runs because the engine's state and guard bits select it. Placing one sets those
registers and ports, and what R32 ties to them, and nothing else. -/

/-- AdcSampler at a state and phase, with `adc_valid`. -/
def placeAdc (v : Variant) (st : AdcState) (ph : BitVec 5) (valid : Bool) (s : State) : State :=
  { s with
    adc := { s.adc with state := st, phase := ph, valid := valid }
    cfg := { s.cfg with adcVariant := v }
    inp := { s.inp with rst := false } }

/-- `pix` at a value, no trigger latched. -/
def placePix (pix : BitVec 8) (s : State) : State :=
  { s with seq := { s.seq with pix := pix, trigLatch := false }, inp := { s.inp with rst := false } }

/-- FrameDumper at a state and cursor. -/
def placeDmp (st : DmpState) (word : WordAddr) (byte : BitVec 1) (last : Bool) (s : State) : State :=
  { s with
    dmp := { s.dmp with state := st, wordIdx := word, byteIdx := byte, lastByteSent := last }
    inp := { s.inp with rst := false } }

/-- A valid pulse or none, in a state R32 allows in either variant. -/
def placeValid (valid : Bool) (s : State) : State :=
  if valid = true then
    match s.cfg.adcVariant with
    | .a => placeAdc .a .idle 0 true s
    | .b => placeAdc .b .done 16 true s
  else placeAdc s.cfg.adcVariant .idle 0 false s

/-- `tau` and `tau_cnt` at values that make `tau_hit` as asked. -/
def placeTau (hit : Bool) (s : State) : State :=
  { s with seq := { s.seq with tauCnt := 0 }, inp := { s.inp with tau := if hit = true then 1 else 2 } }

/-- A state like `s` in which the next step performs `i`. -/
def placeInstr (i : Instr) (s : State) : State :=
  match i with
  | .adcHold => placePix 0 (placeAdc s.cfg.adcVariant .idle 0 false s)
  | .adcStart => placePix 1 (placeAdc s.cfg.adcVariant .idle 0 false s)
  | .adcShift => placeAdc s.cfg.adcVariant .converting 0 false s
  | .adcCapture => placeAdc .b .converting 15 false s
  | .adcCaptureRestart => placePix 1 (placeAdc .a .converting 15 false s)
  | .adcCaptureStop => placePix 0 (placeAdc .a .converting 15 false s)
  | .adcDoneRestart => placePix 1 (placeAdc .b .done 16 true s)
  | .adcDoneStop => placePix 0 (placeAdc .b .done 16 true s)
  | .seqIdle => let t := placePix 0 s; { t with inp := { t.inp with scanTrigger := false } }
  | .seqTrigger => let t := placePix 0 s; { t with inp := { t.inp with scanTrigger := true } }
  | .seqExposeWait => placePix 1 (placeValid false s)
  | .seqAdvance => placePix 1 (placeValid true s)
  | .seqEolTick => placeTau false (placePix 128 s)
  | .seqEolExit => placeTau true (placePix 128 s)
  | .bufNowrite => placeValid false (placePix 0 s)
  | .bufWrite => placePix 1 (placeValid true s)
  | .bufReadHi => placeDmp s.dmp.state s.dmp.wordIdx 0 s.dmp.lastByteSent s
  | .bufReadLo => placeDmp s.dmp.state s.dmp.wordIdx 1 false s
  | .dmpIdle => let t := placeDmp .idle 0 0 s.dmp.lastByteSent s; { t with inp := { t.inp with dumpTrigger := false } }
  | .dmpTrigger => let t := placeDmp .idle 0 0 s.dmp.lastByteSent s; { t with inp := { t.inp with dumpTrigger := true } }
  | .dmpSync => placeDmp .sync 0 0 false s
  | .dmpSendHi => placeDmp .send s.dmp.wordIdx 0 false s
  | .dmpSendLo => placeDmp .send (if s.dmp.wordIdx = 127 then 0 else s.dmp.wordIdx) 1 false s
  | .dmpSendLast => placeDmp .send 127 1 false s
  | .dmpWaitHold => let t := placeDmp .wait 0 0 false s; { t with inp := { t.inp with sinkReady := false } }
  | .dmpAcceptNext => let t := placeDmp .wait 0 0 false s; { t with inp := { t.inp with sinkReady := true } }
  | .dmpAcceptLast => let t := placeDmp .wait 0 0 true s; { t with inp := { t.inp with sinkReady := true } }
  | .dmpDone => placeDmp .done 0 0 true s
  | .wireAdcFrame _ data =>
    let t := placeAdc s.cfg.adcVariant .converting 15 false s
    { t with adc := { t.adc with sr := data >>> 1 }, inp := { t.inp with sdata := data.getLsbD 0 } }
  | .wireDumpSync => placeDmp .sync 0 0 false s
  | .wireDumpHi h =>
    let t := placeDmp .send 0 0 false s
    { t with mem := writeWord t.mem 0 (h ++ loByte (readWord t.mem 0)) }
  | .wireDumpLo l =>
    let t := placeDmp .send 0 1 false s
    { t with mem := writeWord t.mem 0 ((readWord t.mem 0).extractLsb' 8 4 ++ l) }

/-- `s` with the operation of a table word placed; unchanged where the decoder refuses the word. -/
def placeTableWord (s : State) (nbits w : Nat) : State :=
  match decodeTableWord nbits w with
  | some i => placeInstr i s
  | none => s

end Sys2Proof.Machine
end

