-- ==== Sys2Proof/Machine/Adc.lean ====
section
/-! DEFINITION. The AdcSampler operations (41_adc_sampler.md R80 to R94). -/

namespace Sys2Proof.Machine

/-- The edge of an operation that captures nothing: the shift of R80, the next state and phase, `adc_valid` cleared (R89). -/
def adcRun (st : AdcState) (ph : BitVec 5) (s : State) : State :=
  s.setAdc { s.adc with state := st, phase := ph, sr := srNext s, valid := false }

/-- The edge of a capture operation: `sr` and `sample` both take `value`, `adc_valid` is set (R84 to R86, R89). -/
def adcLatch (value : Sample) (st : AdcState) (ph : BitVec 5) (s : State) : State :=
  s.setAdc { state := st, phase := ph, sr := value, sample := value, valid := true }

/-- ADC.HOLD (R81). -/
def execAdcHold (s : State) : Host.Outcome State Fault Refusal := perform .adcHold s (adcRun .idle 0)

/-- ADC.START (R82). -/
def execAdcStart (s : State) : Host.Outcome State Fault Refusal := perform .adcStart s (adcRun .converting 0)

/-- ADC.SHIFT (R83). -/
def execAdcShift (s : State) : Host.Outcome State Fault Refusal :=
  perform .adcShift s (adcRun .converting (s.adc.phase + 1))

/-- ADC.CAPTURE, variant B (R84): the capture takes `sr_next`, the 16th bit included. -/
def execAdcCapture (s : State) : Host.Outcome State Fault Refusal :=
  perform .adcCapture s (adcLatch (srNext s) .done 16)

/-- ADC.CAPTURE_RESTART, variant A (R85). -/
def execAdcCaptureRestart (s : State) : Host.Outcome State Fault Refusal :=
  perform .adcCaptureRestart s (adcLatch (srNext s) .converting 0)

/-- ADC.CAPTURE_STOP, variant A (R86). -/
def execAdcCaptureStop (s : State) : Host.Outcome State Fault Refusal :=
  perform .adcCaptureStop s (adcLatch (srNext s) .idle 0)

/-- ADC.DONE_RESTART, variant B (R87). -/
def execAdcDoneRestart (s : State) : Host.Outcome State Fault Refusal :=
  perform .adcDoneRestart s (adcRun .converting 0)

/-- ADC.DONE_STOP, variant B (R88). -/
def execAdcDoneStop (s : State) : Host.Outcome State Fault Refusal := perform .adcDoneStop s (adcRun .idle 0)

end Sys2Proof.Machine
end

