-- ==== Sys2Proof/Machine/Buf.lean ====
section
/-! DEFINITION. The LineBuffer operations (43_line_buffer.md R120 to R124). The read side writes nothing: its result is the
wire `rdByte`, which the FrameDumper's SEND operations of the same cycle use (R122, R123, R133 to R135). -/

namespace Sys2Proof.Machine

/-- BUF.NOWRITE (R121). -/
def execBufNowrite (s : State) : Host.Outcome State Fault Refusal := perform .bufNowrite s (fun s => s)

/-- BUF.WRITE (R120): `mem[wr_addr] <- wr_data`. -/
def execBufWrite (s : State) : Host.Outcome State Fault Refusal :=
  perform .bufWrite s (fun s => s.setMem (memAfterWrite s))

/-- BUF.READ_HI (R122): no register changes; `rdByte s` is the high byte in this cycle. -/
def execBufReadHi (s : State) : Host.Outcome State Fault Refusal := perform .bufReadHi s (fun s => s)

/-- BUF.READ_LO (R123): no register changes; `rdByte s` is the low byte in this cycle. -/
def execBufReadLo (s : State) : Host.Outcome State Fault Refusal := perform .bufReadLo s (fun s => s)

end Sys2Proof.Machine
end

