-- ==== Sys2Proof/Machine/Dmp.lean ====
section
/-! DEFINITION. The FrameDumper operations (44_frame_dumper.md R130 to R139). -/

namespace Sys2Proof.Machine

/-- A change of `dmp_state` alone (R136 to R139). -/
def dmpGo (st : DmpState) (s : State) : State := s.setDmp { s.dmp with state := st }

/-- A load state's edge: the byte into `tx_data`, the cursor, the latch, and WAIT (R132 to R135). -/
def dmpLoad (b : Byte) (word : WordAddr) (byte : BitVec 1) (last : Bool) (s : State) : State :=
  s.setDmp { state := .wait, wordIdx := word, byteIdx := byte, lastByteSent := last, txData := b }

/-- DMP.IDLE (R130). -/
def execDmpIdle (s : State) : Host.Outcome State Fault Refusal := perform .dmpIdle s (fun s => s)

/-- DMP.TRIGGER (R131). -/
def execDmpTrigger (s : State) : Host.Outcome State Fault Refusal :=
  perform .dmpTrigger s (fun s =>
    s.setDmp { s.dmp with state := .sync, wordIdx := 0, byteIdx := 0, lastByteSent := false })

/-- DMP.SYNC (R132): the cursor and the latch are not touched. -/
def execDmpSync (s : State) : Host.Outcome State Fault Refusal :=
  perform .dmpSync s (dmpLoad s.cfg.syncByte s.dmp.wordIdx s.dmp.byteIdx s.dmp.lastByteSent)

/-- DMP.SEND_HI (R133). -/
def execDmpSendHi (s : State) : Host.Outcome State Fault Refusal :=
  perform .dmpSendHi s (dmpLoad (hiByte (rdData s)) s.dmp.wordIdx 1 s.dmp.lastByteSent)

/-- DMP.SEND_LO (R134): the word is read again. -/
def execDmpSendLo (s : State) : Host.Outcome State Fault Refusal :=
  perform .dmpSendLo s (dmpLoad (loByte (rdData s)) (s.dmp.wordIdx + 1) 0 s.dmp.lastByteSent)

/-- DMP.SEND_LAST (R135): the one modular increment, 127 + 1 = 0 (R201), and the latch. -/
def execDmpSendLast (s : State) : Host.Outcome State Fault Refusal :=
  perform .dmpSendLast s (dmpLoad (loByte (rdData s)) (s.dmp.wordIdx + 1) 0 true)

/-- DMP.WAIT_HOLD (R136): everything holds, for as long as the sink is not ready (R144, R155). -/
def execDmpWaitHold (s : State) : Host.Outcome State Fault Refusal := perform .dmpWaitHold s (fun s => s)

/-- DMP.ACCEPT_NEXT (R137). -/
def execDmpAcceptNext (s : State) : Host.Outcome State Fault Refusal := perform .dmpAcceptNext s (dmpGo .send)

/-- DMP.ACCEPT_LAST (R138). -/
def execDmpAcceptLast (s : State) : Host.Outcome State Fault Refusal := perform .dmpAcceptLast s (dmpGo .done)

/-- DMP.DONE (R139). -/
def execDmpDone (s : State) : Host.Outcome State Fault Refusal := perform .dmpDone s (dmpGo .idle)

end Sys2Proof.Machine
end

