-- ==== Sys2Proof/Machine/Seq.lean ====
section
/-! DEFINITION. The PixelSequencer operations (42_pixel_sequencer.md R100 to R106). -/

namespace Sys2Proof.Machine

/-- The sequencer's edge: the next `pix`, `tau_cnt` and `trig_latch` (R106). -/
def seqMove (pix : BitVec 8) (tauCnt : Nat) (latch : Bool) (s : State) : State :=
  s.setSeq { pix := pix, tauCnt := tauCnt, trigLatch := latch }

/-- `tau_cnt + 1` (R104, R105, R201). -/
def tauBumped (s : State) : Nat := fitTau s.cfg (s.seq.tauCnt + 1)

/-- SEQ.IDLE (R100). -/
def execSeqIdle (s : State) : Host.Outcome State Fault Refusal :=
  perform .seqIdle s (seqMove s.seq.pix s.seq.tauCnt false)

/-- SEQ.TRIGGER (R101). -/
def execSeqTrigger (s : State) : Host.Outcome State Fault Refusal := perform .seqTrigger s (seqMove 1 0 true)

/-- SEQ.EXPOSE_WAIT (R102). -/
def execSeqExposeWait (s : State) : Host.Outcome State Fault Refusal :=
  perform .seqExposeWait s (seqMove s.seq.pix s.seq.tauCnt false)

/-- SEQ.ADVANCE (R103): `pix + 1`, and the Sample written through the write port to word `pix - 1` (R108; log entry 18). -/
def execSeqAdvance (s : State) : Host.Outcome State Fault Refusal :=
  perform .seqAdvance s (fun s => (seqMove (s.seq.pix + 1) s.seq.tauCnt false s).setMem (memAfterWrite s))

/-- SEQ.EOL_TICK (R104). -/
def execSeqEolTick (s : State) : Host.Outcome State Fault Refusal :=
  perform .seqEolTick s (seqMove s.seq.pix (tauBumped s) false)

/-- SEQ.EOL_EXIT (R105). -/
def execSeqEolExit (s : State) : Host.Outcome State Fault Refusal :=
  perform .seqEolExit s (seqMove 0 (tauBumped s) false)

end Sys2Proof.Machine
end

