-- ==== Sys2Proof/Machine/Wire.lean ====
section
/-! DEFINITION. The four wire-format rows of the opcode table (R60 to R63). They are not operations (30_encoding.md
section 5), so no step selects one; their meaning here is the effect the rules give the frame or byte on the registers of the
engine at that end of the wire, where the wire stands at that place of its frame (log entry 13). -/

namespace Sys2Proof.Machine

/-- The 16 bits of a frame shifted into `sr` in order of arrival (R60, R61, R80). -/
def frameAssembled (frame : Word) (sr : BitVec 12) : BitVec 12 := (frameBits frame).foldl shiftIn sr

/-- `adc_state` after the last bit time of a frame (R84 to R86, R206). -/
def frameEndState (s : State) : AdcState :=
  match s.cfg.adcVariant, convert s with
  | .b, _ => .done
  | .a, true => .converting
  | .a, false => .idle

/-- `phase` after the last bit time of a frame (R84 to R86, R206). -/
def frameEndPhase (s : State) : BitVec 5 :=
  match s.cfg.adcVariant with
  | .b => 16
  | .a => 0

/-- Whether this cycle is bit time 15, the last of a frame (R60). -/
def atFrameEnd (s : State) : Bool := s.adc.state == .converting && s.adc.phase == 15

/-- WIRE.ADC_FRAME (R60, R61): in bit time 15 of the frame whose 16 bits are `lead` and `data`, the sampler has shifted all
of them in, and captures. The leading bits are ignored whatever their value (R77). -/
def execWireAdcFrame (lead : BitVec 4) (data : Sample) (s : State) : Host.Outcome State Fault Refusal :=
  performAt (atFrameEnd s) s
    (adcLatch (frameAssembled (lead ++ data) s.adc.sr) (frameEndState s) (frameEndPhase s))

/-- WIRE.DUMP_SYNC (R62): frame position 0, loaded in SYNC and offered to the sink (R132). -/
def execWireDumpSync (s : State) : Host.Outcome State Fault Refusal :=
  performAt (s.dmp.state == .sync) s (dmpLoad s.cfg.syncByte s.dmp.wordIdx s.dmp.byteIdx s.dmp.lastByteSent)

/-- WIRE.DUMP_HI (R63): an odd frame position, the byte 0000hhhh loaded in SEND with `byte_idx = 0` (R133). -/
def execWireDumpHi (h : BitVec 4) (s : State) : Host.Outcome State Fault Refusal :=
  performAt (s.dmp.state == .send && s.dmp.byteIdx == 0) s
    (dmpLoad (h.setWidth 8) s.dmp.wordIdx 1 s.dmp.lastByteSent)

/-- WIRE.DUMP_LO (R63): an even frame position after 0, the byte llllllll loaded in SEND with `byte_idx = 1`; at word 127 it
is the last of the frame (R134, R135). -/
def execWireDumpLo (l : BitVec 8) (s : State) : Host.Outcome State Fault Refusal :=
  performAt (s.dmp.state == .send && s.dmp.byteIdx == 1) s
    (dmpLoad l (s.dmp.wordIdx + 1) 0 (w127 s || s.dmp.lastByteSent))

end Sys2Proof.Machine
end

