-- ==== Sys2Proof/Machine/Dispatch.lean ====
section
/-! DEFINITION. One arm per operation, each a call of its meaning. -/

namespace Sys2Proof.Machine

def exec (i : Instr) (s : State) : Host.Outcome State Fault Refusal :=
  match i with
  | .adcHold => Sys2Proof.Machine.execAdcHold s
  | .adcStart => Sys2Proof.Machine.execAdcStart s
  | .adcShift => Sys2Proof.Machine.execAdcShift s
  | .adcCapture => Sys2Proof.Machine.execAdcCapture s
  | .adcCaptureRestart => Sys2Proof.Machine.execAdcCaptureRestart s
  | .adcCaptureStop => Sys2Proof.Machine.execAdcCaptureStop s
  | .adcDoneRestart => Sys2Proof.Machine.execAdcDoneRestart s
  | .adcDoneStop => Sys2Proof.Machine.execAdcDoneStop s
  | .seqIdle => Sys2Proof.Machine.execSeqIdle s
  | .seqTrigger => Sys2Proof.Machine.execSeqTrigger s
  | .seqExposeWait => Sys2Proof.Machine.execSeqExposeWait s
  | .seqAdvance => Sys2Proof.Machine.execSeqAdvance s
  | .seqEolTick => Sys2Proof.Machine.execSeqEolTick s
  | .seqEolExit => Sys2Proof.Machine.execSeqEolExit s
  | .bufNowrite => Sys2Proof.Machine.execBufNowrite s
  | .bufWrite => Sys2Proof.Machine.execBufWrite s
  | .bufReadHi => Sys2Proof.Machine.execBufReadHi s
  | .bufReadLo => Sys2Proof.Machine.execBufReadLo s
  | .dmpIdle => Sys2Proof.Machine.execDmpIdle s
  | .dmpTrigger => Sys2Proof.Machine.execDmpTrigger s
  | .dmpSync => Sys2Proof.Machine.execDmpSync s
  | .dmpSendHi => Sys2Proof.Machine.execDmpSendHi s
  | .dmpSendLo => Sys2Proof.Machine.execDmpSendLo s
  | .dmpSendLast => Sys2Proof.Machine.execDmpSendLast s
  | .dmpWaitHold => Sys2Proof.Machine.execDmpWaitHold s
  | .dmpAcceptNext => Sys2Proof.Machine.execDmpAcceptNext s
  | .dmpAcceptLast => Sys2Proof.Machine.execDmpAcceptLast s
  | .dmpDone => Sys2Proof.Machine.execDmpDone s
  | .wireAdcFrame lead data => Sys2Proof.Machine.execWireAdcFrame lead data s
  | .wireDumpSync => Sys2Proof.Machine.execWireDumpSync s
  | .wireDumpHi h => Sys2Proof.Machine.execWireDumpHi h s
  | .wireDumpLo l => Sys2Proof.Machine.execWireDumpLo l s

end Sys2Proof.Machine
end

