-- ==== Sys2Proof/Machine/Step.lean ====
section
/-! DEFINITION. One clock cycle of the core (R1, R2). -/

namespace Sys2Proof.Machine

/-- One step is one cycle: reset wins (R5, R170); else each engine performs the operation its selector names, all from the
same state (R2, R72), and the clock passes. -/
def step (s : State) : Host.Outcome State Fault Refusal :=
  if s.inp.rst = true then .next (tick (resetEdge s))
  else match fetch s with
    | .error r => .refused r
    | .ok ops => joinCycle s (exec ops.adc s) (exec ops.seq s) (exec ops.wr s) (exec ops.rd s) (exec ops.dmp s)

/-- `s` with the instruction of a table word placed where the next step selects it (log entries 17 and 24). -/
def State.withFetchWord (s : State) (nbits w : Nat) : State := placeTableWord s nbits w

end Sys2Proof.Machine
end

