-- ==== Sys2Proof/Safety.lean ====
section
/-! DEFINITION. What the statements call a good state and a good environment: the inductive invariant that contains R32, the
condition for an operation to be performed, and the named premises of R163. -/

namespace Sys2Proof.Machine

/-- An operation can be performed in this cycle: no reset (R5) and a state that keeps R32 (R73). -/
def Ready (s : State) : Prop := s.inp.rst = false ∧ legal s = true

/-- `1 <= pix <= 127` (R67, R107). -/
def Exposing (s : State) : Prop := 1 ≤ s.seq.pix.toNat ∧ s.seq.pix.toNat ≤ 127

/-- The invariant of every run from reset: R32, the ranges of the registers the model holds as numbers, and what else of
the rules a step needs to keep R32 (R19, R21, R27, R201). -/
structure Inv (s : State) : Prop where
  /-- R32 (a) to (g). -/
  legal : legal s = true
  /-- R19: in variant B the valid pulse is the DONE cycle. -/
  valid_of_done : s.adc.state = .done → s.adc.valid = true
  /-- R27: `tau_cnt` is cleared by the trigger and holds until END_OF_LINE. -/
  tauCnt_exposing : Exposing s → s.seq.tauCnt = 0
  /-- R201: the increment of `tau_cnt` always fits. -/
  tauCnt_endOfLine : s.seq.pix = 128 → s.seq.tauCnt + 1 < 2 ^ s.cfg.tauW
  /-- `tau_cnt` has `TAU_W` bits (R27). -/
  tauCnt_fits : s.seq.tauCnt < 2 ^ s.cfg.tauW
  /-- The port `tau` has `TAU_W` wires (R23). -/
  tau_fits : s.inp.tau < 2 ^ s.cfg.tauW
  /-- There is a legal value of `tau` (R23). -/
  width : 1 ≤ s.cfg.tauW
  /-- R21: the latch is set from the last SEND to the next trigger. -/
  last_state : s.dmp.lastByteSent = true → s.dmp.state = .wait ∨ s.dmp.state = .done ∨ s.dmp.state = .idle
  /-- R138: DONE is entered with the latch set. -/
  done_last : s.dmp.state = .done → s.dmp.lastByteSent = true
  /-- R17, R131: the cursor is (0, 0) outside the body of a frame. -/
  cursor_start : s.dmp.state = .idle ∨ s.dmp.state = .sync → s.dmp.wordIdx = 0 ∧ s.dmp.byteIdx = 0
  /-- The LineBuffer is in its canonical form. -/
  mem_wf : Memory.wf s.mem = true

/-! ## Runs

A run is the states of the cycles 0, 1, 2, … without an end (R165). The inputs of each cycle are free (the liberties of R163):
a run takes the inputs of its next cycle one at a time, as a stimulus of one line. -/

/-- The states of a run: each the step of the one before, under some inputs for the cycle to come. -/
def DrivenRun (r : Nat → State) : Prop := ∀ t : Nat, ∃ i : Inputs, step { r t with stim := [i] } = .next (r (t + 1))

/-! ## The duties of R163, each a premise a statement may take. The core checks none of them. -/

/-- CFG-TAU, in one cycle: `tau >= 1` where `pix = 128`. -/
def CfgTau (s : State) : Prop := s.seq.pix = 128 → s.inp.tau ≠ 0

/-- CFG-TAU-STABLE, over two consecutive cycles: `tau` constant while `pix = 128`. -/
def CfgTauStable (s t : State) : Prop := s.seq.pix = 128 → t.seq.pix = 128 → t.inp.tau = s.inp.tau

/-- A scan is triggered in this cycle (R101). -/
def ScanTriggered (s : State) : Prop := s.inp.rst = false ∧ s.seq.pix = 0 ∧ s.inp.scanTrigger = true

/-- A dump is triggered in this cycle (R131). -/
def DumpTriggered (s : State) : Prop := s.inp.rst = false ∧ s.dmp.state = .idle ∧ s.inp.dumpTrigger = true

/-- No write of a scan comes after this cycle, unless a scan is triggered in it or later. The last write of a scan is that of
`pix = 127`, or with `EOL_WRITE` that of the straggler's pulse in END_OF_LINE, which comes after its last CONVERTING cycle. -/
def ScanWritten (s : State) : Prop :=
  s.seq.pix = 0 ∨
  (s.cfg.eolWrite = true ∧ s.seq.pix = 128 ∧ s.adc.state ≠ .converting) ∨
  (s.cfg.eolWrite = false ∧ (s.seq.pix = 128 ∨ (s.seq.pix = 127 ∧ wrEn s = true)))

/-- TRIG-DISCIPLINE, in one cycle, as R180 has it: (a) a dump is triggered in the cycle of the scan's last write or later;
(b) a scan is triggered while no dump is under way, or in the cycle with `done = 1`. DESIGN CHOICE (log entry 28): R163 says that
no dump overlaps a scan, and R180 (a) lets a dump begin while `pix` is still 127 or 128; R180 counts cycles from the trigger,
and this names the events of those cycles; only a trigger that its engine takes counts; and the two are not triggered in one
cycle. -/
def TrigDiscipline (s : State) : Prop :=
  (DumpTriggered s → ScanWritten s ∧ ¬ ScanTriggered s) ∧
  (ScanTriggered s → s.dmp.state = .idle ∨ donePulse s = true)

/-- TAU-MIN, over a run: for the stay in END_OF_LINE (cycles `a` to `b - 1`) that a cycle `b` with `pix = 0` ends, either
`tau >= W - 1` in every cycle of the stay, or, until the next scan starts, `scan_trigger = 0` in every cycle before the
straggler's valid pulse. In a cycle with `pix = 0` a sampler that is CONVERTING is converting the straggler, and its pulse comes
in the cycle after its last CONVERTING one (R84, R86); the cycle of the pulse itself may hold the trigger (R183, "Special
case"). -/
def TauMin (r : Nat → State) : Prop :=
  ∀ a b : Nat, a < b → (∀ t, a ≤ t → t < b → (r t).seq.pix = 128) → (r b).seq.pix = 0 →
    (∀ t, a ≤ t → t < b → (r t).cfg.window ≤ (r t).inp.tau + 1) ∨
    ∀ t, b ≤ t → (∀ u, b ≤ u → u ≤ t → (r u).seq.pix = 0) → (r t).adc.state = .converting → (r t).inp.scanTrigger = false

/-- ADC-FRAME, in one cycle: the device drives the bits of `v` in bit times 4 to 15 (R92). -/
def AdcFrame (v : Sample) (s : State) : Prop :=
  s.adc.state = .converting → ∀ p : Nat, 4 ≤ p → p ≤ 15 → s.adc.phase.toNat = p → s.inp.sdata = v.getLsbD (15 - p)

/-- SINK-LIVE, over a run: whenever `sink_valid` stays 1, `sink_ready = 1` in some later cycle. -/
def SinkLive (r : Nat → State) : Prop :=
  ∀ t : Nat, (∀ u, t ≤ u → sinkValid (r u) = true) → ∃ u, t < u ∧ (r u).inp.sinkReady = true

/-- RESET-FIRST, for a claim about the cycles of a run from `c` on: `rst = 1` in at least one cycle before (R173, R174). -/
def ResetFirst (r : Nat → State) (c : Nat) : Prop := ∃ t, t < c ∧ (r t).inp.rst = true

/-! ## A safe run -/

/-- A run is safe where every state keeps the invariant and CFG-TAU holds: no step of it stops (R150, R165). -/
def SafeRun (r : Nat → State) : Prop := ∀ t, Inv (r t) ∧ CfgTau (r t)

end Sys2Proof.Machine
end

