-- ==== Sys2Proof/Certificates/Slice0/Tables.lean ====
section
/-! DEFINITION. The complete transition tables of R206, R207 and R208 and the write port of R108, written from
45_arithmetic_and_transitions.md as functions of the registers, with no selector word, decoder or operation: the second
description of the core that the statements compare the machine with. -/

namespace Sys2Proof.Tables

open Sys2Proof.Machine

/-- AdcSampler (R206), with the shift of R204. -/
def adcNext (v : Variant) (conv bit : Bool) (a : AdcRegs) : AdcRegs :=
  let shifted : BitVec 12 := a.sr.extractLsb' 0 11 ++ BitVec.ofBool bit
  match a.state with
  | .idle =>
    if conv = true then { a with state := .converting, phase := 0, sr := shifted, valid := false }
    else { a with state := .idle, phase := 0, sr := shifted, valid := false }
  | .converting =>
    if a.phase.toNat < 15 then { a with phase := a.phase + 1, sr := shifted, valid := false }
    else match v with
      | .b => { state := .done, phase := 16, sr := shifted, sample := shifted, valid := true }
      | .a =>
        if conv = true then { state := .converting, phase := 0, sr := shifted, sample := shifted, valid := true }
        else { state := .idle, phase := 0, sr := shifted, sample := shifted, valid := true }
  | .done =>
    if conv = true then { a with state := .converting, phase := 0, sr := shifted, valid := false }
    else { a with state := .idle, phase := 0, sr := shifted, valid := false }

/-- PixelSequencer (R207), with `tau_cnt` (R27, R201) and `trig_latch` (R106). -/
def seqNext (scan valid : Bool) (tau : Nat) (q : SeqRegs) : SeqRegs :=
  if q.pix = 0 then
    if scan = true then { pix := 1, tauCnt := 0, trigLatch := true } else { q with trigLatch := false }
  else if q.pix = 128 then
    if q.tauCnt + 1 < tau then { pix := 128, tauCnt := q.tauCnt + 1, trigLatch := false }
    else { pix := 0, tauCnt := q.tauCnt + 1, trigLatch := false }
  else if valid = true then { pix := q.pix + 1, tauCnt := q.tauCnt, trigLatch := false }
  else { q with trigLatch := false }

/-- The LineBuffer's write port (R108, R43): word `pix - 1` takes the Sample where `wr_en = 1`. -/
def memNext (eolWrite : Bool) (a : AdcRegs) (q : SeqRegs) (m : Memory) : Memory :=
  if a.valid = true ∧ ((1 ≤ q.pix.toNat ∧ q.pix.toNat ≤ 127) ∨ (eolWrite = true ∧ q.pix = 128)) then
    writeWord m (BitVec.ofNat 7 (q.pix.toNat - 1)) a.sample
  else m

/-- FrameDumper (R208), with the cursor, the latch and `tx_data` (R17, R18, R21, R12). `word` is `mem[word_idx]`. -/
def dmpNext (sync : Byte) (dump ready : Bool) (word : Sample) (d : DmpRegs) : DmpRegs :=
  match d.state with
  | .idle =>
    if dump = true then { d with state := .sync, wordIdx := 0, byteIdx := 0, lastByteSent := false } else d
  | .sync => { d with state := .wait, txData := sync }
  | .send =>
    if d.byteIdx = 0 then { d with state := .wait, byteIdx := 1, txData := (word.extractLsb' 8 4).setWidth 8 }
    else if d.wordIdx = 127 then
      { state := .wait, wordIdx := 0, byteIdx := 0, lastByteSent := true, txData := word.extractLsb' 0 8 }
    else { d with state := .wait, wordIdx := d.wordIdx + 1, byteIdx := 0, txData := word.extractLsb' 0 8 }
  | .wait =>
    if ready = true then (if d.lastByteSent = true then { d with state := .done } else { d with state := .send })
    else d
  | .done => { d with state := .idle }

/-- The "operation" column of R206. -/
def adcOp (v : Variant) (conv : Bool) (a : AdcRegs) : Instr :=
  match a.state with
  | .idle => if conv = true then .adcStart else .adcHold
  | .converting =>
    if a.phase.toNat < 15 then .adcShift
    else match v with
      | .b => .adcCapture
      | .a => if conv = true then .adcCaptureRestart else .adcCaptureStop
  | .done => if conv = true then .adcDoneRestart else .adcDoneStop

/-- The "operation" column of R207. -/
def seqOp (scan valid : Bool) (tau : Nat) (q : SeqRegs) : Instr :=
  if q.pix = 0 then (if scan = true then .seqTrigger else .seqIdle)
  else if q.pix = 128 then (if q.tauCnt + 1 < tau then .seqEolTick else .seqEolExit)
  else if valid = true then .seqAdvance
  else .seqExposeWait

/-- The write side's operation (R120, R121) by R108. -/
def wrOp (eolWrite : Bool) (a : AdcRegs) (q : SeqRegs) : Instr :=
  if a.valid = true ∧ ((1 ≤ q.pix.toNat ∧ q.pix.toNat ≤ 127) ∨ (eolWrite = true ∧ q.pix = 128)) then .bufWrite
  else .bufNowrite

/-- The read side's operation (R122, R123). -/
def rdOp (d : DmpRegs) : Instr := if d.byteIdx = 0 then .bufReadHi else .bufReadLo

/-- The "operation" column of R208. -/
def dmpOp (dump ready : Bool) (d : DmpRegs) : Instr :=
  match d.state with
  | .idle => if dump = true then .dmpTrigger else .dmpIdle
  | .sync => .dmpSync
  | .send => if d.byteIdx = 0 then .dmpSendHi else if d.wordIdx = 127 then .dmpSendLast else .dmpSendLo
  | .wait => if ready = true then (if d.lastByteSent = true then .dmpAcceptLast else .dmpAcceptNext) else .dmpWaitHold
  | .done => .dmpDone

/-- The five operations of a cycle, by the tables. -/
def coreOps (s : State) : CycleOps :=
  { adc := adcOp s.cfg.adcVariant (decide (1 ≤ s.seq.pix.toNat ∧ s.seq.pix.toNat ≤ 127)) s.adc
    seq := seqOp s.inp.scanTrigger s.adc.valid s.inp.tau s.seq
    wr := wrOp s.cfg.eolWrite s.adc s.seq
    rd := rdOp s.dmp
    dmp := dmpOp s.inp.dumpTrigger s.inp.sinkReady s.dmp }

/-- The whole core after a cycle with `rst = 0` (R2): each engine by its table, from the same state, and the clock passes. -/
def coreNext (s : State) : State :=
  tick { s with
    adc := adcNext s.cfg.adcVariant (decide (1 ≤ s.seq.pix.toNat ∧ s.seq.pix.toNat ≤ 127)) s.inp.sdata s.adc
    seq := seqNext s.inp.scanTrigger s.adc.valid s.inp.tau s.seq
    mem := memNext s.cfg.eolWrite s.adc s.seq s.mem
    dmp := dmpNext s.cfg.syncByte s.inp.dumpTrigger s.inp.sinkReady (readWord s.mem s.dmp.wordIdx) s.dmp }

end Sys2Proof.Tables
end

