-- ==== Sys2Proof/Certificates/Slice0/Obligations.lean ====
section
/-! DEFINITION. The statements for the provers. A statement of an operation's result says everything of the next state, as an
update of the state before: its frame is the rest of that update. `Ready s` is: no reset in this cycle (R5), and a state that
keeps R32 (R73). -/

open Sys2Proof Sys2Proof.Machine

/-! ## AdcSampler -/

/-- R81, whole: selector, writes, outputs of the cycle. -/
def Obligations.AdcHoldStaysIdleAndShifts : Prop :=
  ∀ s : State, Ready s → s.adc.state = .idle → ¬ Exposing s →
    exec .adcHold s = .next { s with adc :=
      { state := .idle, phase := 0, sr := s.adc.sr.extractLsb' 0 11 ++ BitVec.ofBool s.inp.sdata,
        sample := s.adc.sample, valid := false } } ∧
    (outputs s).csN = true ∧ (outputs s).adcValid = s.adc.valid ∧ (s.adc.valid = true → s.cfg.adcVariant = .a)

/-- R82: `cs_n` is still 1 in this cycle and falls in the next. -/
def Obligations.AdcStartEntersConverting : Prop :=
  ∀ s : State, Ready s → s.adc.state = .idle → Exposing s →
    ∃ t, exec .adcStart s = .next t ∧
      t = { s with adc :=
        { state := .converting, phase := 0, sr := s.adc.sr.extractLsb' 0 11 ++ BitVec.ofBool s.inp.sdata,
          sample := s.adc.sample, valid := false } } ∧
      (outputs s).csN = true ∧ (outputs t).csN = false

/-- R83: `phase` in 0..14; `convert` plays no part; `adc_valid` can be 1 here only in variant A at `phase = 0`. -/
def Obligations.AdcShiftAdvancesPhase : Prop :=
  ∀ s : State, Ready s → s.adc.state = .converting → s.adc.phase.toNat ≤ 14 →
    ∃ t, exec .adcShift s = .next t ∧
      t = { s with adc :=
        { state := .converting, phase := s.adc.phase + 1,
          sr := s.adc.sr.extractLsb' 0 11 ++ BitVec.ofBool s.inp.sdata, sample := s.adc.sample, valid := false } } ∧
      t.adc.phase.toNat = s.adc.phase.toNat + 1 ∧ (outputs s).csN = false ∧
      (s.adc.valid = true → s.cfg.adcVariant = .a ∧ s.adc.phase = 0)

/-- R84: the capture takes `sr_next`, the bit of bit time 15 included, whatever `convert` is. -/
def Obligations.AdcCaptureLatchesShiftedSample : Prop :=
  ∀ s : State, Ready s → s.cfg.adcVariant = .b → s.adc.state = .converting → s.adc.phase = 15 →
    ∃ t, exec .adcCapture s = .next t ∧
      t = { s with adc :=
        { state := .done, phase := 16, sr := s.adc.sr.extractLsb' 0 11 ++ BitVec.ofBool s.inp.sdata,
          sample := s.adc.sr.extractLsb' 0 11 ++ BitVec.ofBool s.inp.sdata, valid := true } } ∧
      (outputs s).csN = false ∧ (outputs t).csN = true ∧ (outputs t).adcValid = true

/-- R85: in variant A with `convert = 1`, the next conversion begins at once and `cs_n` does not rise. -/
def Obligations.AdcCaptureRestartKeepsConverting : Prop :=
  ∀ s : State, Ready s → s.cfg.adcVariant = .a → s.adc.state = .converting → s.adc.phase = 15 → Exposing s →
    ∃ t, exec .adcCaptureRestart s = .next t ∧
      t = { s with adc :=
        { state := .converting, phase := 0, sr := s.adc.sr.extractLsb' 0 11 ++ BitVec.ofBool s.inp.sdata,
          sample := s.adc.sr.extractLsb' 0 11 ++ BitVec.ofBool s.inp.sdata, valid := true } } ∧
      (outputs s).csN = false ∧ (outputs t).csN = false ∧ (outputs t).adcValid = true

/-- R86: in variant A with `convert = 0`. -/
def Obligations.AdcCaptureStopGoesIdle : Prop :=
  ∀ s : State, Ready s → s.cfg.adcVariant = .a → s.adc.state = .converting → s.adc.phase = 15 → ¬ Exposing s →
    ∃ t, exec .adcCaptureStop s = .next t ∧
      t = { s with adc :=
        { state := .idle, phase := 0, sr := s.adc.sr.extractLsb' 0 11 ++ BitVec.ofBool s.inp.sdata,
          sample := s.adc.sr.extractLsb' 0 11 ++ BitVec.ofBool s.inp.sdata, valid := true } } ∧
      (outputs s).csN = false ∧ (outputs t).csN = true ∧ (outputs t).adcValid = true

/-- R87 and R88: the DONE cycle lasts one cycle, and `convert` chooses what follows it. A DONE cycle with `adc_valid = 1`
is every reachable one (R19). -/
def Obligations.AdcDoneLastsOneCycle : Prop :=
  ∀ s : State, Ready s → s.adc.state = .done → s.adc.valid = true →
    (Exposing s → exec .adcDoneRestart s = .next { s with adc :=
      { state := .converting, phase := 0, sr := s.adc.sr.extractLsb' 0 11 ++ BitVec.ofBool s.inp.sdata,
        sample := s.adc.sample, valid := false } }) ∧
    (¬ Exposing s → exec .adcDoneStop s = .next { s with adc :=
      { state := .idle, phase := 0, sr := s.adc.sr.extractLsb' 0 11 ++ BitVec.ofBool s.inp.sdata,
        sample := s.adc.sample, valid := false } }) ∧
    (outputs s).csN = true ∧ (outputs s).adcValid = true ∧ (outputs s).adcSample = s.adc.sample

/-- R61: shifting in the 16 bits of a frame, in order of arrival, leaves the 12 data bits, first received most significant,
whatever the register held and whatever the leading bits were. -/
def Obligations.SixteenShiftsAssembleTheSample : Prop :=
  ∀ (lead : BitVec 4) (data sr : BitVec 12),
    ((List.range 16).map (fun p => (lead ++ data).getLsbD (15 - p))).foldl shiftIn sr = data

/-! ## PixelSequencer -/

/-- R100: an `adc_valid` pulse in the cycle is ignored. -/
def Obligations.SeqIdleHoldsPixAndTauCnt : Prop :=
  ∀ s : State, Ready s → s.seq.pix = 0 → s.inp.scanTrigger = false →
    exec .seqIdle s = .next { s with seq := { s.seq with trigLatch := false } } ∧ convert s = false ∧ wrEn s = false

/-- R101, with the outputs of the next cycle. -/
def Obligations.SeqTriggerStartsAScan : Prop :=
  ∀ s : State, Ready s → s.seq.pix = 0 → s.inp.scanTrigger = true →
    ∃ t, exec .seqTrigger s = .next t ∧
      t = { s with seq := { pix := 1, tauCnt := 0, trigLatch := true } } ∧
      convert s = false ∧ wrEn s = false ∧ (outputs s).sensorStart = false ∧
      convert t = true ∧ (outputs t).sensorStart = s.cfg.hasStartPulse

/-- R102: `scan_trigger` plays no part; in the first cycle with `pix = 1`, the one with the latch set (R106), the start
pulse shows. -/
def Obligations.SeqExposeWaitHoldsPix : Prop :=
  ∀ s : State, Ready s → Exposing s → s.adc.valid = false →
    exec .seqExposeWait s = .next { s with seq := { s.seq with trigLatch := false } } ∧ convert s = true ∧
    wrEn s = false ∧ (s.seq.trigLatch = true → s.seq.pix = 1 ∧ (outputs s).sensorStart = s.cfg.hasStartPulse)

/-- R103: `pix + 1` without wrap, and the Sample in word `pix - 1`, every other byte of the LineBuffer as before. -/
def Obligations.SeqAdvanceCountsAndStoresTheSample : Prop :=
  ∀ s : State, Ready s → Exposing s → s.adc.valid = true → Memory.wf s.mem = true →
    ∃ t, exec .seqAdvance s = .next t ∧
      t = { s with seq := { s.seq with pix := s.seq.pix + 1, trigLatch := false }, mem := t.mem } ∧
      t.seq.pix.toNat = s.seq.pix.toNat + 1 ∧
      readWord t.mem (BitVec.ofNat 7 (s.seq.pix.toNat - 1)) = s.adc.sample ∧
      (∀ a : Nat, a ≠ 2 * (s.seq.pix.toNat - 1) → a ≠ 2 * (s.seq.pix.toNat - 1) + 1 →
        readByte t.mem a = readByte s.mem a) ∧
      convert s = true ∧ wrEn s = true ∧ (wrAddr s).toNat = s.seq.pix.toNat - 1 ∧ wrData s = s.adc.sample ∧
      (s.seq.pix = 127 → t.seq.pix = 128 ∧ convert t = false)

/-- R104. -/
def Obligations.SeqEolTickCounts : Prop :=
  ∀ s : State, Inv s → s.inp.rst = false → s.seq.pix = 128 → s.seq.tauCnt + 1 < s.inp.tau →
    exec .seqEolTick s = .next { s with seq := { pix := 128, tauCnt := s.seq.tauCnt + 1, trigLatch := false } } ∧
    convert s = false ∧ (s.cfg.eolWrite = false → wrEn s = false)

/-- R105: `>=`, a trigger in the cycle plays no part, and the increment always fits. -/
def Obligations.SeqEolExitReturnsToZero : Prop :=
  ∀ s : State, Inv s → s.inp.rst = false → s.seq.pix = 128 → s.inp.tau ≠ 0 → s.inp.tau ≤ s.seq.tauCnt + 1 →
    exec .seqEolExit s = .next { s with seq := { pix := 0, tauCnt := s.seq.tauCnt + 1, trigLatch := false } } ∧
    convert s = false ∧ (s.cfg.eolWrite = false → wrEn s = false) ∧ s.seq.tauCnt + 1 ≤ 2 ^ s.cfg.tauW - 1

/-- U1 and R151: `tau = 0` in a cycle with `pix = 128` has no next state, for the operations and for the step. -/
def Obligations.ZeroTauAtEndOfLineIsRefused : Prop :=
  ∀ s : State, Ready s → s.seq.pix = 128 → s.inp.tau = 0 →
    exec .seqEolTick s = .refused .tauZero ∧ exec .seqEolExit s = .refused .tauZero ∧ step s = .refused .tauZero

/-! ## LineBuffer -/

/-- R120: one whole word, both ways `wr_en` can be 1 (R108, R113), every other byte as before. -/
def Obligations.BufWriteStoresOneWord : Prop :=
  ∀ s : State, Ready s → s.adc.valid = true → (Exposing s ∨ (s.cfg.eolWrite = true ∧ s.seq.pix = 128)) →
    Memory.wf s.mem = true →
    ∃ t, exec .bufWrite s = .next t ∧ t = { s with mem := t.mem } ∧
      readWord t.mem (wrAddr s) = s.adc.sample ∧ (wrAddr s).toNat = s.seq.pix.toNat - 1 ∧
      (∀ a : Nat, a ≠ 2 * (wrAddr s).toNat → a ≠ 2 * (wrAddr s).toNat + 1 → readByte t.mem a = readByte s.mem a)

/-- R121, and R122 and R123 (the read side writes nothing and shows the selected byte of `mem[word_idx]`). -/
def Obligations.BufIdleWriteAndReadsChangeNothing : Prop :=
  ∀ s : State, Ready s →
    (wrEn s = false → exec .bufNowrite s = .next s) ∧
    (s.dmp.byteIdx = 0 → exec .bufReadHi s = .next s ∧ rdData s = readWord s.mem s.dmp.wordIdx ∧
      rdByte s = ((readWord s.mem s.dmp.wordIdx).extractLsb' 8 4).setWidth 8 ∧ (rdByte s).toNat ≤ 0x0F) ∧
    (s.dmp.byteIdx = 1 → exec .bufReadLo s = .next s ∧ rdData s = readWord s.mem s.dmp.wordIdx ∧
      rdByte s = (readWord s.mem s.dmp.wordIdx).extractLsb' 0 8)

/-- R108 and R202: when the write port is enabled, and what it shows; by default it is enabled in exactly the cycles of
SEQ.ADVANCE, and word 127 is written by no operation. -/
def Obligations.WritePortDrive : Prop :=
  ∀ s : State, legal s = true →
    (wrEn s = true ↔ s.adc.valid = true ∧ (Exposing s ∨ (s.cfg.eolWrite = true ∧ s.seq.pix = 128))) ∧
    (wrAddr s).toNat = (if s.seq.pix = 0 then 127 else s.seq.pix.toNat - 1) ∧ wrData s = s.adc.sample ∧
    (s.seq.pix = 0 → wrEn s = false) ∧
    (s.cfg.eolWrite = false → (wrEn s = true ↔ select s .qsel = .ok .seqAdvance)) ∧
    (s.cfg.eolWrite = false → wrEn s = true → (wrAddr s).toNat ≤ 126)

/-- R43 and R44 at the word: a word reads as last written, every other word as before; the form is kept by the law
`wf_writeWord`. -/
def Obligations.WordReadsBackAsWritten : Prop :=
  ∀ (m : Memory) (i j : WordAddr) (v : Sample), Memory.wf m = true →
    readWord (writeWord m i v) j = if j = i then v else readWord m j

/-! ## FrameDumper -/

/-- R130. -/
def Obligations.DmpIdleHoldsEverything : Prop :=
  ∀ s : State, Ready s → s.dmp.state = .idle → s.inp.dumpTrigger = false →
    exec .dmpIdle s = .next s ∧ (outputs s).sinkValid = false ∧ (outputs s).done = false

/-- R131: `tx_data` is not touched. -/
def Obligations.DmpTriggerStartsADump : Prop :=
  ∀ s : State, Ready s → s.dmp.state = .idle → s.inp.dumpTrigger = true →
    exec .dmpTrigger s = .next { s with dmp :=
      { state := .sync, wordIdx := 0, byteIdx := 0, lastByteSent := false, txData := s.dmp.txData } } ∧
    (outputs s).sinkValid = false ∧ (outputs s).done = false

/-- R132: one cycle, whatever the sink and the trigger show; offered from the next cycle. -/
def Obligations.DmpSyncLoadsTheSyncByte : Prop :=
  ∀ s : State, Ready s → s.dmp.state = .sync →
    ∃ t, exec .dmpSync s = .next t ∧
      t = { s with dmp := { s.dmp with state := .wait, txData := s.cfg.syncByte } } ∧
      (outputs s).sinkValid = false ∧ (outputs s).done = false ∧
      (outputs t).sinkValid = true ∧ (outputs t).sinkData = s.cfg.syncByte

/-- R133. -/
def Obligations.DmpSendHiLoadsTheHighByte : Prop :=
  ∀ s : State, Ready s → s.dmp.state = .send → s.dmp.byteIdx = 0 →
    exec .dmpSendHi s = .next { s with dmp :=
      { s.dmp with state := .wait, byteIdx := 1,
                   txData := ((readWord s.mem s.dmp.wordIdx).extractLsb' 8 4).setWidth 8 } } ∧
    (outputs s).sinkValid = false ∧ (outputs s).done = false

/-- R134: the cursor moves to the next word without wrap. -/
def Obligations.DmpSendLoLoadsTheLowByte : Prop :=
  ∀ s : State, Ready s → s.dmp.state = .send → s.dmp.byteIdx = 1 → s.dmp.wordIdx ≠ 127 →
    ∃ t, exec .dmpSendLo s = .next t ∧
      t = { s with dmp :=
        { s.dmp with state := .wait, wordIdx := s.dmp.wordIdx + 1, byteIdx := 0,
                     txData := (readWord s.mem s.dmp.wordIdx).extractLsb' 0 8 } } ∧
      t.dmp.wordIdx.toNat = s.dmp.wordIdx.toNat + 1 ∧
      (outputs s).sinkValid = false ∧ (outputs s).done = false

/-- R135: the low byte of word 127, the cursor back at (0, 0), the latch set. -/
def Obligations.DmpSendLastSetsTheLatch : Prop :=
  ∀ s : State, Ready s → s.dmp.state = .send → s.dmp.byteIdx = 1 → s.dmp.wordIdx = 127 →
    exec .dmpSendLast s = .next { s with dmp :=
      { state := .wait, wordIdx := 0, byteIdx := 0, lastByteSent := true,
        txData := (readWord s.mem 127).extractLsb' 0 8 } } ∧
    (outputs s).sinkValid = false ∧ (outputs s).done = false

/-- R136: everything holds, and nothing is transferred. -/
def Obligations.DmpWaitHoldOffersTheSameByte : Prop :=
  ∀ s : State, Ready s → s.dmp.state = .wait → s.inp.sinkReady = false →
    exec .dmpWaitHold s = .next s ∧ (outputs s).sinkValid = true ∧ (outputs s).sinkData = s.dmp.txData ∧
    (outputs s).done = false ∧ transfer s = none

/-- R137 and R138: the byte offered is transferred in this cycle, and the latch chooses SEND or DONE. -/
def Obligations.DmpAcceptTransfersTheByte : Prop :=
  ∀ s : State, Ready s → s.dmp.state = .wait → s.inp.sinkReady = true →
    (s.dmp.lastByteSent = false → exec .dmpAcceptNext s = .next { s with dmp := { s.dmp with state := .send } }) ∧
    (s.dmp.lastByteSent = true → exec .dmpAcceptLast s = .next { s with dmp := { s.dmp with state := .done } }) ∧
    (outputs s).sinkValid = true ∧ (outputs s).sinkData = s.dmp.txData ∧ (outputs s).done = false ∧
    transfer s = some s.dmp.txData

/-- R139: `done` is 1 for this one cycle, whatever the trigger shows. -/
def Obligations.DmpDonePulsesOnce : Prop :=
  ∀ s : State, Ready s → s.dmp.state = .done →
    ∃ t, exec .dmpDone s = .next t ∧ t = { s with dmp := { s.dmp with state := .idle } } ∧
      (outputs s).done = true ∧ (outputs s).sinkValid = false ∧ (outputs t).done = false

/-! ## The wire-format rows (the model's choice of a meaning, log entry 13) -/

/-- R61 at the end of a frame: the Sample is the frame's 12 data bits, the leading bits are ignored (R77), and the sampler
goes on as its variant and `convert` say (R206). That the row is performed there is the model's choice (log entry 13). -/
def Obligations.WireAdcFrameYieldsItsDataBits : Prop :=
  ∀ (s : State) (lead : BitVec 4) (data : Sample), Ready s → s.adc.state = .converting → s.adc.phase = 15 →
    ∃ t, exec (.wireAdcFrame lead data) s = .next t ∧ t = { s with adc := t.adc } ∧
      t.adc.sample = data ∧ t.adc.sr = data ∧ t.adc.valid = true ∧
      (s.cfg.adcVariant = .b → t.adc.state = .done ∧ t.adc.phase = 16) ∧
      (s.cfg.adcVariant = .a → Exposing s → t.adc.state = .converting ∧ t.adc.phase = 0) ∧
      (s.cfg.adcVariant = .a → ¬ Exposing s → t.adc.state = .idle ∧ t.adc.phase = 0)

/-- R62 and R63 where the dumper forms the byte: SYNC_BYTE at frame position 0, 0000hhhh and llllllll in a SEND cycle by the
byte index. That the rows are performed there is the model's choice (log entry 13). -/
def Obligations.WireDumpBytesAreLoadedByPosition : Prop :=
  ∀ (s : State) (h : BitVec 4) (l : Byte), Ready s →
    (s.dmp.state = .sync → exec .wireDumpSync s = .next { s with dmp :=
      { s.dmp with state := .wait, txData := s.cfg.syncByte } }) ∧
    (s.dmp.state = .send → s.dmp.byteIdx = 0 → exec (.wireDumpHi h) s = .next { s with dmp :=
      { s.dmp with state := .wait, byteIdx := 1, txData := (0 : BitVec 4) ++ h } }) ∧
    (s.dmp.state = .send → s.dmp.byteIdx = 1 → s.dmp.wordIdx ≠ 127 → exec (.wireDumpLo l) s = .next { s with dmp :=
      { s.dmp with state := .wait, wordIdx := s.dmp.wordIdx + 1, byteIdx := 0, txData := l } }) ∧
    (s.dmp.state = .send → s.dmp.byteIdx = 1 → s.dmp.wordIdx = 127 → exec (.wireDumpLo l) s = .next { s with dmp :=
      { state := .wait, wordIdx := 0, byteIdx := 0, lastByteSent := true, txData := l } })

/-! ## The cycle, reset and the invariant -/

/-- R2 and R72: where the five selector words decode to five operations and each answers a next state, the step is those
five, each register taken from the operation of its owner (R158), and the clock passes. -/
def Obligations.StepRunsTheSelectedOperations : Prop :=
  ∀ (s sa sq sw sr sd : State) (a q w r d : Instr), Ready s → CfgTau s →
    decode s.cfg .asel ((aselWord s).setWidth 16) = .ok a → decode s.cfg .qsel ((qselWord s).setWidth 16) = .ok q →
    decode s.cfg .wsel ((wselWord s).setWidth 16) = .ok w → decode s.cfg .rsel ((rselWord s).setWidth 16) = .ok r →
    decode s.cfg .dsel ((dselWord s).setWidth 16) = .ok d →
    exec a s = .next sa → exec q s = .next sq → exec w s = .next sw → exec r s = .next sr → exec d s = .next sd →
    step s = .next (tick { s with adc := sa.adc, seq := sq.seq, mem := sw.mem, dmp := sd.dmp })

/-- R170 and R5: in a cycle with `rst = 1` reset wins, whatever the state, even one that breaks R32; no LineBuffer word
changes. `sr`, `sample` and `tx_data` may hold anything (free values), so nothing is said of them. -/
def Obligations.ResetCycleOverridesEveryOperation : Prop :=
  ∀ s : State, s.inp.rst = true →
    ∃ t, step s = .next t ∧ t.adc.state = .idle ∧ t.adc.phase = 0 ∧ t.adc.valid = false ∧
      t.seq = { pix := 0, tauCnt := 0, trigLatch := false } ∧ t.dmp.state = .idle ∧ t.dmp.wordIdx = 0 ∧
      t.dmp.byteIdx = 0 ∧ t.dmp.lastByteSent = false ∧ t.mem = s.mem ∧ t.cfg = s.cfg

/-- R172: the first cycle after a reset cycle, whatever came before: the outputs, the operations selected, a trigger at 1
honoured at once, and the core quiescent. -/
def Obligations.FirstCycleAfterReset : Prop :=
  ∀ s : State, s.inp.rst = true → ∃ t, step s = .next t ∧
    (outputs t).csN = true ∧ (outputs t).adcValid = false ∧ (outputs t).sensorStart = false ∧
    (outputs t).sensorClk = false ∧ (outputs t).sinkValid = false ∧ (outputs t).done = false ∧ quiescent t = true ∧
    fetch t = .ok { adc := .adcHold, seq := if t.inp.scanTrigger = true then .seqTrigger else .seqIdle,
                    wr := .bufNowrite, rd := .bufReadHi,
                    dmp := if t.inp.dumpTrigger = true then .dmpTrigger else .dmpIdle }

/-- R33 for the registers whose value the spec gives, and the outputs of R172 that it fixes, with `convert` and `wr_en`. -/
def Obligations.ResetStateHasTheTableValues : Prop :=
  State.reset.adc.state = .idle ∧ State.reset.adc.phase = 0 ∧ State.reset.adc.valid = false ∧
  State.reset.seq = { pix := 0, tauCnt := 0, trigLatch := false } ∧ State.reset.dmp.state = .idle ∧
  State.reset.dmp.wordIdx = 0 ∧ State.reset.dmp.byteIdx = 0 ∧ State.reset.dmp.lastByteSent = false ∧
  (outputs State.reset).csN = true ∧ (outputs State.reset).adcValid = false ∧
  (outputs State.reset).sensorStart = false ∧ (outputs State.reset).sensorClk = false ∧
  (outputs State.reset).sinkValid = false ∧ (outputs State.reset).done = false ∧
  convert State.reset = false ∧ wrEn State.reset = false ∧ quiescent State.reset = true

/-- The reset state satisfies the invariant. -/
def Obligations.ResetStateSatisfiesTheInvariant : Prop := Inv State.reset

/-- R32, made inductive: every step, a reset cycle among them, keeps the invariant, under every input. -/
def Obligations.EveryStepKeepsTheInvariant : Prop :=
  ∀ s t : State, Inv s → step s = .next t → Inv t

/-- R150 and R165: from a state that keeps the invariant the core always steps, except in the one configuration the spec
refuses (U1), and it never faults. -/
def Obligations.CoreNeverHaltsWhileTauIsLegal : Prop :=
  ∀ s : State, Inv s → (s.inp.rst = true ∨ CfgTau s) → ∃ t, step s = .next t

/-- U5 as log entry 10 (DEDUCED) reads it: a start state that breaks any of R32 (a) to (g) is given no next state. R73's reserved
values are among them: a `pix` of 129..255, DONE in variant A, a `phase` of 17..31 or one that breaks R14. The reserved state
codes are not representable. -/
def Obligations.IllegalStateHasNoNextState : Prop :=
  ∀ s : State, s.inp.rst = false →
    (legal s = false → step s = .refused .illegalState) ∧
    (129 ≤ s.seq.pix.toNat → step s = .refused .illegalState) ∧
    (s.adc.state = .done → s.cfg.adcVariant = .a → step s = .refused .illegalState) ∧
    (17 ≤ s.adc.phase.toNat → step s = .refused .illegalState) ∧
    (s.adc.state = .idle → s.adc.phase ≠ 0 → step s = .refused .illegalState) ∧
    (s.adc.state = .converting → 16 ≤ s.adc.phase.toNat → step s = .refused .illegalState) ∧
    (s.adc.state = .done → s.adc.phase ≠ 16 → step s = .refused .illegalState)

/-- R206, R207, R208 (with R108 and R2): the operations the selector words and the decoder name are those of the transition
tables, and one step of the machine is one step of the tables. -/
def Obligations.StepRefinesTheTransitionTables : Prop :=
  ∀ s : State, Inv s → s.inp.rst = false → CfgTau s →
    fetch s = .ok (Tables.coreOps s) ∧ step s = .next (Tables.coreNext s)

/-- R158: an operation changes only what its engine owns. The AdcSampler operations and the frame row leave the rest alone,
the sequencer's leave all but its registers alone and ADVANCE the word it writes, and so on; no operation touches a byte of
the LineBuffer except the two of the word the write port addresses. -/
def Obligations.OperationsWriteOnlyWhatTheirEngineOwns : Prop :=
  ∀ (i : Instr) (s t : State), exec i s = .next t → Memory.wf s.mem = true →
    t.cfg = s.cfg ∧ t.inp = s.inp ∧ t.stim = s.stim ∧ t.cycle = s.cycle ∧
    (i.format ≠ .asel → i.format ≠ .adcFrame → t.adc = s.adc) ∧
    (i.format ≠ .qsel → t.seq = s.seq) ∧
    (i.format = .asel ∨ i.format = .qsel ∨ i.format = .wsel ∨ i.format = .rsel ∨ i.format = .adcFrame → t.dmp = s.dmp) ∧
    (i ≠ .bufWrite → i ≠ .seqAdvance → ∀ a : Nat, readByte t.mem a = readByte s.mem a) ∧
    (∀ a : Nat, a ≠ 2 * (wrAddr s).toNat → a ≠ 2 * (wrAddr s).toNat + 1 → readByte t.mem a = readByte s.mem a)

/-! ## Encoding -/

/-- R72, R60, R62, R63: decoding the word of a row valid for the configuration gives the row, in every format and at every
frame position it fits, with every field at every value. -/
def Obligations.DecodeOfEncodeIsTheRow : Prop :=
  ∀ (c : Config) (i : Instr) (f : Format), wellFormed c i = true → i.fitsFormat f = true →
    decode c f (encode c i) = .ok i

/-- R72: a word of a selector format decodes to a row exactly when the row is one of the format's, is valid for the
configured variant, and `(SEL and mask) = match`; so no word matches two rows. -/
def Obligations.SelectorWordMatchesItsRowOnly : Prop :=
  ∀ (c : Config) (f : Format) (w : Word) (i : Instr), f = .asel ∨ f = .qsel ∨ f = .wsel ∨ f = .rsel ∨ f = .dsel →
    w.toNat < 2 ^ formatWidth f →
    (decode c f w = .ok i ↔ ∃ r ∈ rowsOf f, r.op = i ∧ wellFormed c i = true ∧ w &&& r.mask = r.mtch)

/-- R72: every selector word of a state that keeps R32 matches a row of its format valid for the variant (U1 aside, the
sequencer's too). -/
def Obligations.EveryReachableSelectorHasARow : Prop :=
  ∀ s : State, legal s = true →
    (∃ i, decode s.cfg .asel ((aselWord s).setWidth 16) = .ok i) ∧
    (∃ i, decode s.cfg .qsel ((qselWord s).setWidth 16) = .ok i) ∧
    (∃ i, decode s.cfg .wsel ((wselWord s).setWidth 16) = .ok i) ∧
    (∃ i, decode s.cfg .rsel ((rselWord s).setWidth 16) = .ok i) ∧
    (∃ i, decode s.cfg .dsel ((dselWord s).setWidth 16) = .ok i)

/-- Words written out from the patterns of 30_encoding.md section 5, `x` bits at 1 among them. -/
def Obligations.WrittenWordsDecodeToTheirRows : Prop :=
  decode Config.default .asel 0b0010 = .ok .adcHold ∧ decode Config.default .asel 0b0111 = .ok .adcCapture ∧
  decode { Config.default with adcVariant := .a } .asel 0b0111 = .ok .adcCaptureRestart ∧
  decode { Config.default with adcVariant := .a } .asel 0b0110 = .ok .adcCaptureStop ∧
  decode Config.default .qsel 0b01110 = .ok .seqAdvance ∧ decode Config.default .qsel 0b10011 = .ok .seqEolExit ∧
  decode Config.default .wsel 0b1 = .ok .bufWrite ∧ decode Config.default .rsel 0b0 = .ok .bufReadHi ∧
  decode Config.default .dsel 0b01011111 = .ok .dmpSendLast ∧ decode Config.default .dsel 0b01101000 = .ok .dmpAcceptNext ∧
  decode Config.default .dsel 0b10100000 = .error .reservedDmpState ∧
  decode Config.default .adcFrame 0b0101101001011010 = .ok (.wireAdcFrame 0b0101 0xA5A) ∧
  decode Config.default (.dumpByte 0) 0b01000010 = .ok .wireDumpSync ∧
  decode Config.default (.dumpByte 255) 0b00001111 = .ok (.wireDumpHi 0xF) ∧
  decode Config.default (.dumpByte 1) 0b00011111 = .error .paddingSet ∧
  decode Config.default (.dumpByte 256) 0b11101101 = .ok (.wireDumpLo 0xED)

/-- R62, R64, R205: a receiver that knows where the frame starts rebuilds the 128 words of the line. -/
def Obligations.ReceiverRebuildsTheLine : Prop :=
  ∀ (c : Config) (line : List Sample), line.length = Config.nPix →
    (frameOf c line).length = 257 ∧ receiveFrame c (frameOf c line) = .ok line

/-! ## Whole-machine rules -/

/-- R3: the output ports depend on the registers only. -/
def Obligations.OutputsDependOnRegistersOnly : Prop :=
  ∀ s t : State, s.adc = t.adc → s.seq = t.seq → s.dmp = t.dmp → s.cfg = t.cfg →
    outputs s = outputs t ∧
    outputs s = { csN := decide (s.adc.state ≠ .converting), adcSample := s.adc.sample, adcValid := s.adc.valid,
                  sensorStart := s.cfg.hasStartPulse && s.seq.trigLatch, sensorClk := s.adc.valid,
                  sinkData := s.dmp.txData, sinkValid := decide (s.dmp.state = .wait),
                  done := decide (s.dmp.state = .done) }

/-- R111 and R145: a trigger given to a busy engine changes no register. -/
def Obligations.TriggersAreIgnoredWhileBusy : Prop :=
  ∀ (s t u : State) (b : Bool), s.inp.rst = false →
    (s.seq.pix ≠ 0 → step s = .next t → step { s with inp := { s.inp with scanTrigger := b } } = .next u →
      u.adc = t.adc ∧ u.seq = t.seq ∧ u.mem = t.mem ∧ u.dmp = t.dmp) ∧
    (s.dmp.state ≠ .idle → step s = .next t → step { s with inp := { s.inp with dumpTrigger := b } } = .next u →
      u.adc = t.adc ∧ u.seq = t.seq ∧ u.mem = t.mem ∧ u.dmp = t.dmp)

/-- R110, first sentence: outside the cycles with `pix = 128` the value of `tau` plays no part, 0 included. -/
def Obligations.TauIsReadOnlyAtEndOfLine : Prop :=
  ∀ (s t : State) (n : Nat), s.inp.rst = false → s.seq.pix ≠ 128 → step s = .next t →
    ∃ u, step { s with inp := { s.inp with tau := n } } = .next u ∧
      u.adc = t.adc ∧ u.seq = t.seq ∧ u.mem = t.mem ∧ u.dmp = t.dmp

/-- R209: a dump can never disturb a scan. Two states that agree on everything but the dumper, the sink and the dump trigger
step to the same sampler, sequencer and LineBuffer. -/
def Obligations.DumpNeverDisturbsAScan : Prop :=
  ∀ s s' t t' : State, s.inp.rst = false → s'.inp.rst = false → s.adc = s'.adc → s.seq = s'.seq → s.mem = s'.mem →
    s.cfg = s'.cfg → s.inp.scanTrigger = s'.inp.scanTrigger → s.inp.tau = s'.inp.tau → s.inp.sdata = s'.inp.sdata →
    step s = .next t → step s' = .next t' → t.adc = t'.adc ∧ t.seq = t'.seq ∧ t.mem = t'.mem

/-- R142: a byte is transferred exactly where `sink_valid` and `sink_ready` are 1, in no cycle but those of the two ACCEPT
operations; `sink_valid` does not depend on `sink_ready`; and an offered byte stays offered, unchanged, until the cycle of its
transfer. -/
def Obligations.OfferedByteIsHeldUntilTransferred : Prop :=
  ∀ s : State,
    (∀ b, transfer s = some b ↔
      (outputs s).sinkValid = true ∧ s.inp.sinkReady = true ∧ b = (outputs s).sinkData) ∧
    (transfer s ≠ none → select s .dsel = .ok .dmpAcceptNext ∨ select s .dsel = .ok .dmpAcceptLast) ∧
    (∀ r, (outputs { s with inp := { s.inp with sinkReady := r } }).sinkValid = (outputs s).sinkValid) ∧
    (∀ t, s.inp.rst = false → step s = .next t → (outputs s).sinkValid = true → s.inp.sinkReady = false →
      (outputs t).sinkValid = true ∧ (outputs t).sinkData = (outputs s).sinkData)

/-- R45: where the word written is the word on the read port, the read returns the old word, a SEND loads a byte of the old
word, and the new word stands from the next cycle on. -/
def Obligations.ReadInTheWriteCycleSeesTheOldWord : Prop :=
  ∀ s : State, Inv s → s.inp.rst = false → CfgTau s → wrEn s = true → wrAddr s = rdAddr s →
    rdData s = readWord s.mem s.dmp.wordIdx ∧
    ∃ t, step s = .next t ∧ readWord t.mem s.dmp.wordIdx = s.adc.sample ∧
      (s.dmp.state = .send → t.dmp.txData =
        (if s.dmp.byteIdx = 0 then ((readWord s.mem s.dmp.wordIdx).extractLsb' 8 4).setWidth 8
         else (readWord s.mem s.dmp.wordIdx).extractLsb' 0 8))

/-- R165: in a quiescent state with the triggers and reset at 0, a step changes no register and no word but `sr`. -/
def Obligations.QuiescentCoreOnlyShifts : Prop :=
  ∀ s : State, Inv s → quiescent s = true → s.inp.rst = false → s.inp.scanTrigger = false → s.inp.dumpTrigger = false →
    ∃ t, step s = .next t ∧ t.seq = s.seq ∧ t.mem = s.mem ∧ t.dmp = s.dmp ∧ quiescent t = true ∧
      t.adc = { s.adc with sr := s.adc.sr.extractLsb' 0 11 ++ BitVec.ofBool s.inp.sdata }

/-- R89 and R106: `adc_valid` is set by the three capture operations and `trig_latch` by SEQ.TRIGGER, by no other operation,
and each stands for exactly one cycle, the latch for the first with `pix = 1`. -/
def Obligations.PulsesNameTheirCycle : Prop :=
  ∀ s t : State, s.inp.rst = false → step s = .next t →
    (t.adc.valid = true ↔ select s .asel = .ok .adcCapture ∨ select s .asel = .ok .adcCaptureRestart ∨
      select s .asel = .ok .adcCaptureStop) ∧
    (s.adc.valid = true → t.adc.valid = false) ∧
    (t.seq.trigLatch = true ↔ select s .qsel = .ok .seqTrigger) ∧
    (s.seq.trigLatch = true → t.seq.trigLatch = false) ∧
    (t.seq.trigLatch = true → s.seq.pix = 0 ∧ t.seq.pix = 1)

/-- R112, variant B: the cycle that advances `pix` from 127 enters END_OF_LINE and starts the straggler conversion. -/
def Obligations.StragglerStartsAtTheLastPixel : Prop :=
  ∀ s : State, Inv s → s.inp.rst = false → s.cfg.adcVariant = .b → s.seq.pix = 127 → s.adc.valid = true →
    ∃ t, step s = .next t ∧ t.seq.pix = 128 ∧ convert t = false ∧ t.adc.state = .converting ∧ t.adc.phase = 0 ∧
      t.adc.sample = s.adc.sample ∧ readWord t.mem 126 = s.adc.sample

/-! ## Runs -/

/-- R95 and R61: from an idle sampler in EXPOSING, with no reset, sixteen CONVERTING cycles with `cs_n` low and no pulse
follow, and in the 17th cycle the pulse stands with the twelve values `sdata` had in bit times 4 to 15, first received most
significant. `stim` is the input of the coming cycles, any values whatever. A conversion begun by ADC.DONE_RESTART or
ADC.CAPTURE_RESTART is not covered. -/
def Obligations.ConversionDeliversTheTwelveDataBits : Prop :=
  ∀ s : State, Inv s → s.adc.state = .idle → s.adc.valid = false → Exposing s → s.inp.rst = false →
    16 ≤ s.stim.length → (∀ i ∈ s.stim, i.rst = false) →
    (∀ k : Nat, 1 ≤ k → k ≤ 16 → ∃ u, Host.Core.run Sys2Proof.core k s = .next u ∧ u.adc.state = .converting ∧
      u.adc.phase.toNat = k - 1 ∧ (outputs u).csN = false ∧ u.adc.valid = false) ∧
    ∃ t, Host.Core.run Sys2Proof.core 17 s = .next t ∧ t.adc.valid = true ∧ t.seq.pix = s.seq.pix ∧
      t.adc.state = (if s.cfg.adcVariant = .b then .done else .converting) ∧
      (outputs t).csN = decide (s.cfg.adcVariant = .b) ∧
      ∀ k : Nat, k < 12 → ∃ i, s.stim[4 + k]? = some i ∧ t.adc.sample.getLsbD (11 - k) = i.sdata

/-- R110: with `tau` legal and held, `pix = 128` holds for exactly `tau` cycles, and `tau_cnt` ends equal to `tau` (R105). -/
def Obligations.EndOfLineLastsExactlyTauCycles : Prop :=
  ∀ s : State, Inv s → s.seq.pix = 128 → s.seq.tauCnt = 0 → s.inp.tau ≠ 0 → s.inp.rst = false →
    s.inp.tau ≤ s.stim.length → (∀ i ∈ s.stim, i.rst = false ∧ i.tau = s.inp.tau) →
    (∀ k : Nat, k < s.inp.tau → ∃ t, Host.Core.run Sys2Proof.core k s = .next t ∧ t.seq.pix = 128 ∧ t.seq.tauCnt = k) ∧
    ∃ t, Host.Core.run Sys2Proof.core s.inp.tau s = .next t ∧ t.seq.pix = 0 ∧ t.seq.tauCnt = s.inp.tau

/-- R143 and R146: a dump with the sink ready in every cycle and no scan in the way transfers frame position `n` in cycle
`d + 2 + 2n`, the sync byte and then the serialisation of the line, pulses `done` in cycle `d + 515` and is idle again in
cycle `d + 516`. -/
def Obligations.DumpSendsTheWholeFrame : Prop :=
  ∀ s : State, Inv s → s.dmp.state = .idle → s.seq.pix = 0 → s.inp.rst = false → s.inp.scanTrigger = false →
    s.inp.dumpTrigger = true → s.inp.sinkReady = true →
    516 ≤ s.stim.length →
    (∀ i ∈ s.stim, i.rst = false ∧ i.scanTrigger = false ∧ i.sinkReady = true) →
    (∀ n : Nat, n ≤ 256 → ∃ t, Host.Core.run Sys2Proof.core (2 + 2 * n) s = .next t ∧
      transfer t = (frameOf s.cfg (lineOf s.mem))[n]?) ∧
    (∃ t, Host.Core.run Sys2Proof.core 515 s = .next t ∧ (outputs t).done = true ∧ t.mem = s.mem) ∧
    ∃ t, Host.Core.run Sys2Proof.core 516 s = .next t ∧ (outputs t).done = false ∧ t.dmp.state = .idle

/-- R144: while the sink is not ready the dumper stays in WAIT with the same byte, for as long as that lasts, and `done`
does not come; the core goes on stepping. -/
def Obligations.DeadSinkHoldsTheDumperForever : Prop :=
  ∀ (s : State) (k : Nat), Inv s → s.dmp.state = .wait → s.inp.sinkReady = false → s.inp.rst = false → s.inp.tau ≠ 0 →
    k ≤ s.stim.length →
    (∀ i ∈ s.stim, i.rst = false ∧ i.sinkReady = false ∧ fitTau s.cfg i.tau ≠ 0) →
    ∃ t, Host.Core.run Sys2Proof.core k s = .next t ∧ t.dmp = s.dmp ∧ (outputs t).sinkValid = true ∧
      (outputs t).sinkData = s.dmp.txData ∧ (outputs t).done = false

/-- R187 and R163: with the premise SINK-LIVE every dump ends. In every run without reset whose sink is live, from any state of
the invariant with a dump under way there is a cycle with `done = 1`. -/
def Obligations.EveryDumpEndsWhereTheSinkIsLive : Prop :=
  ∀ r : Nat → State, DrivenRun r → Inv (r 0) → (∀ t, (r t).inp.rst = false) → SinkLive r → (r 0).dmp.state ≠ .idle →
    ∃ t, (outputs (r t)).done = true

/-- R183: under the premise TAU-MIN no straggler leaks into the next scan. In every run from a quiescent state, whatever `tau`
and `rst` do, the sampler is idle without a pulse in the cycle after every SEQ.TRIGGER. -/
def Obligations.NoStragglerLeaksUnderTauMin : Prop :=
  ∀ r : Nat → State, DrivenRun r → Inv (r 0) → quiescent (r 0) = true → TauMin r →
    ∀ t, (r t).inp.rst = false → (r t).seq.pix = 0 → (r t).inp.scanTrigger = true →
      (r (t + 1)).seq.pix = 1 ∧ (r (t + 1)).adc.state = .idle ∧ (r (t + 1)).adc.valid = false
end

