-- ==== Sys2Proof/Laws/State.lean ====
section
/-! SUPPORT. One lemma per field per update of State. -/

namespace Sys2Proof.Machine

section Updates
variable (s : State) (a : AdcRegs) (q : SeqRegs) (m : Memory) (d : DmpRegs)

@[simp] theorem State.setAdc_adc : (s.setAdc a).adc = a := rfl
@[simp] theorem State.setAdc_seq : (s.setAdc a).seq = s.seq := rfl
@[simp] theorem State.setAdc_mem : (s.setAdc a).mem = s.mem := rfl
@[simp] theorem State.setAdc_dmp : (s.setAdc a).dmp = s.dmp := rfl
@[simp] theorem State.setAdc_inp : (s.setAdc a).inp = s.inp := rfl
@[simp] theorem State.setAdc_stim : (s.setAdc a).stim = s.stim := rfl
@[simp] theorem State.setAdc_cycle : (s.setAdc a).cycle = s.cycle := rfl
@[simp] theorem State.setAdc_cfg : (s.setAdc a).cfg = s.cfg := rfl

@[simp] theorem State.setSeq_adc : (s.setSeq q).adc = s.adc := rfl
@[simp] theorem State.setSeq_seq : (s.setSeq q).seq = q := rfl
@[simp] theorem State.setSeq_mem : (s.setSeq q).mem = s.mem := rfl
@[simp] theorem State.setSeq_dmp : (s.setSeq q).dmp = s.dmp := rfl
@[simp] theorem State.setSeq_inp : (s.setSeq q).inp = s.inp := rfl
@[simp] theorem State.setSeq_stim : (s.setSeq q).stim = s.stim := rfl
@[simp] theorem State.setSeq_cycle : (s.setSeq q).cycle = s.cycle := rfl
@[simp] theorem State.setSeq_cfg : (s.setSeq q).cfg = s.cfg := rfl

@[simp] theorem State.setMem_adc : (s.setMem m).adc = s.adc := rfl
@[simp] theorem State.setMem_seq : (s.setMem m).seq = s.seq := rfl
@[simp] theorem State.setMem_mem : (s.setMem m).mem = m := rfl
@[simp] theorem State.setMem_dmp : (s.setMem m).dmp = s.dmp := rfl
@[simp] theorem State.setMem_inp : (s.setMem m).inp = s.inp := rfl
@[simp] theorem State.setMem_stim : (s.setMem m).stim = s.stim := rfl
@[simp] theorem State.setMem_cycle : (s.setMem m).cycle = s.cycle := rfl
@[simp] theorem State.setMem_cfg : (s.setMem m).cfg = s.cfg := rfl

@[simp] theorem State.setDmp_adc : (s.setDmp d).adc = s.adc := rfl
@[simp] theorem State.setDmp_seq : (s.setDmp d).seq = s.seq := rfl
@[simp] theorem State.setDmp_mem : (s.setDmp d).mem = s.mem := rfl
@[simp] theorem State.setDmp_dmp : (s.setDmp d).dmp = d := rfl
@[simp] theorem State.setDmp_inp : (s.setDmp d).inp = s.inp := rfl
@[simp] theorem State.setDmp_stim : (s.setDmp d).stim = s.stim := rfl
@[simp] theorem State.setDmp_cycle : (s.setDmp d).cycle = s.cycle := rfl
@[simp] theorem State.setDmp_cfg : (s.setDmp d).cfg = s.cfg := rfl

end Updates

section Engines
variable (s : State) (st : AdcState) (ph : BitVec 5) (v : Sample) (p : BitVec 8) (n : Nat) (l : Bool)
  (ds : DmpState) (b : Byte) (w : WordAddr) (y : BitVec 1)

@[simp] theorem adcRun_adc : (adcRun st ph s).adc = { s.adc with state := st, phase := ph, sr := srNext s, valid := false } := rfl
@[simp] theorem adcRun_seq : (adcRun st ph s).seq = s.seq := rfl
@[simp] theorem adcRun_mem : (adcRun st ph s).mem = s.mem := rfl
@[simp] theorem adcRun_dmp : (adcRun st ph s).dmp = s.dmp := rfl
@[simp] theorem adcRun_inp : (adcRun st ph s).inp = s.inp := rfl
@[simp] theorem adcRun_stim : (adcRun st ph s).stim = s.stim := rfl
@[simp] theorem adcRun_cycle : (adcRun st ph s).cycle = s.cycle := rfl
@[simp] theorem adcRun_cfg : (adcRun st ph s).cfg = s.cfg := rfl

@[simp] theorem adcLatch_adc : (adcLatch v st ph s).adc = { state := st, phase := ph, sr := v, sample := v, valid := true } := rfl
@[simp] theorem adcLatch_seq : (adcLatch v st ph s).seq = s.seq := rfl
@[simp] theorem adcLatch_mem : (adcLatch v st ph s).mem = s.mem := rfl
@[simp] theorem adcLatch_dmp : (adcLatch v st ph s).dmp = s.dmp := rfl
@[simp] theorem adcLatch_inp : (adcLatch v st ph s).inp = s.inp := rfl
@[simp] theorem adcLatch_stim : (adcLatch v st ph s).stim = s.stim := rfl
@[simp] theorem adcLatch_cycle : (adcLatch v st ph s).cycle = s.cycle := rfl
@[simp] theorem adcLatch_cfg : (adcLatch v st ph s).cfg = s.cfg := rfl

@[simp] theorem seqMove_adc : (seqMove p n l s).adc = s.adc := rfl
@[simp] theorem seqMove_seq : (seqMove p n l s).seq = { pix := p, tauCnt := n, trigLatch := l } := rfl
@[simp] theorem seqMove_mem : (seqMove p n l s).mem = s.mem := rfl
@[simp] theorem seqMove_dmp : (seqMove p n l s).dmp = s.dmp := rfl
@[simp] theorem seqMove_inp : (seqMove p n l s).inp = s.inp := rfl
@[simp] theorem seqMove_stim : (seqMove p n l s).stim = s.stim := rfl
@[simp] theorem seqMove_cycle : (seqMove p n l s).cycle = s.cycle := rfl
@[simp] theorem seqMove_cfg : (seqMove p n l s).cfg = s.cfg := rfl

@[simp] theorem dmpGo_adc : (dmpGo ds s).adc = s.adc := rfl
@[simp] theorem dmpGo_seq : (dmpGo ds s).seq = s.seq := rfl
@[simp] theorem dmpGo_mem : (dmpGo ds s).mem = s.mem := rfl
@[simp] theorem dmpGo_dmp : (dmpGo ds s).dmp = { s.dmp with state := ds } := rfl
@[simp] theorem dmpGo_inp : (dmpGo ds s).inp = s.inp := rfl
@[simp] theorem dmpGo_stim : (dmpGo ds s).stim = s.stim := rfl
@[simp] theorem dmpGo_cycle : (dmpGo ds s).cycle = s.cycle := rfl
@[simp] theorem dmpGo_cfg : (dmpGo ds s).cfg = s.cfg := rfl

@[simp] theorem dmpLoad_adc : (dmpLoad b w y l s).adc = s.adc := rfl
@[simp] theorem dmpLoad_seq : (dmpLoad b w y l s).seq = s.seq := rfl
@[simp] theorem dmpLoad_mem : (dmpLoad b w y l s).mem = s.mem := rfl
@[simp] theorem dmpLoad_dmp : (dmpLoad b w y l s).dmp = { state := .wait, wordIdx := w, byteIdx := y, lastByteSent := l, txData := b } := rfl
@[simp] theorem dmpLoad_inp : (dmpLoad b w y l s).inp = s.inp := rfl
@[simp] theorem dmpLoad_stim : (dmpLoad b w y l s).stim = s.stim := rfl
@[simp] theorem dmpLoad_cycle : (dmpLoad b w y l s).cycle = s.cycle := rfl
@[simp] theorem dmpLoad_cfg : (dmpLoad b w y l s).cfg = s.cfg := rfl

end Engines

section Clock
variable (s : State)

@[simp] theorem tick_adc : (tick s).adc = s.adc := by unfold tick; cases s.stim <;> rfl
@[simp] theorem tick_seq : (tick s).seq = s.seq := by unfold tick; cases s.stim <;> rfl
@[simp] theorem tick_mem : (tick s).mem = s.mem := by unfold tick; cases s.stim <;> rfl
@[simp] theorem tick_dmp : (tick s).dmp = s.dmp := by unfold tick; cases s.stim <;> rfl
@[simp] theorem tick_cfg : (tick s).cfg = s.cfg := by unfold tick; cases s.stim <;> rfl
@[simp] theorem tick_cycle : (tick s).cycle = s.cycle + 1 := by unfold tick; cases s.stim <;> rfl

/-- Where the stimulus is spent, the ports hold (R75). -/
theorem tick_inp_nil (h : s.stim = []) : (tick s).inp = s.inp := by unfold tick; rw [h]

/-- Otherwise they take the next line of the stimulus. -/
theorem tick_inp_cons {i : Inputs} {rest : List Inputs} (h : s.stim = i :: rest) :
    (tick s).inp = onPins s.cfg i := by unfold tick; rw [h]

theorem tick_stim : (tick s).stim = s.stim.tail := by
  unfold tick; cases s.stim <;> simp

@[simp] theorem resetEdge_mem : (resetEdge s).mem = s.mem := rfl
@[simp] theorem resetEdge_inp : (resetEdge s).inp = s.inp := rfl
@[simp] theorem resetEdge_stim : (resetEdge s).stim = s.stim := rfl
@[simp] theorem resetEdge_cycle : (resetEdge s).cycle = s.cycle := rfl
@[simp] theorem resetEdge_cfg : (resetEdge s).cfg = s.cfg := rfl
@[simp] theorem resetEdge_seq : (resetEdge s).seq = { pix := 0, tauCnt := 0, trigLatch := false } := rfl
@[simp] theorem resetEdge_adc : (resetEdge s).adc =
    { state := .idle, phase := 0, sr := Config.anySr s.cycle, sample := Config.anySample s.cycle, valid := false } := rfl
@[simp] theorem resetEdge_dmp : (resetEdge s).dmp =
    { state := .idle, wordIdx := 0, byteIdx := 0, lastByteSent := false, txData := Config.anyTxData s.cycle } := rfl

end Clock

section Merge
variable (s a q w d : State)

@[simp] theorem mergeEngines_adc : (mergeEngines s a q w d).adc = a.adc := by simp [mergeEngines]
@[simp] theorem mergeEngines_seq : (mergeEngines s a q w d).seq = q.seq := by simp [mergeEngines]
@[simp] theorem mergeEngines_mem : (mergeEngines s a q w d).mem = w.mem := by simp [mergeEngines]
@[simp] theorem mergeEngines_dmp : (mergeEngines s a q w d).dmp = d.dmp := by simp [mergeEngines]
@[simp] theorem mergeEngines_cfg : (mergeEngines s a q w d).cfg = s.cfg := by simp [mergeEngines]
@[simp] theorem mergeEngines_cycle : (mergeEngines s a q w d).cycle = s.cycle + 1 := by simp [mergeEngines]

end Merge

end Sys2Proof.Machine
end

