-- ==== Sys2Proof/Laws/Fetch.lean ====
section
/-! SUPPORT. What the decoder reads from each selector word, what each engine selects, and what a guarded meaning can
answer: said once, so that no proof unfolds the decoder or the guard again. -/

namespace Sys2Proof.Machine

/-! ## The decoder on the selector words (R72) -/

theorem decode_asel (c : Config) (st : AdcState) (p q : Bool) :
    decode c .asel ((st.code ++ BitVec.ofBool p ++ BitVec.ofBool q).setWidth 16) =
      match st, p, q, c.adcVariant with
      | .idle, _, false, _ => .ok .adcHold
      | .idle, _, true, _ => .ok .adcStart
      | .converting, false, _, _ => .ok .adcShift
      | .converting, true, _, .b => .ok .adcCapture
      | .converting, true, true, .a => .ok .adcCaptureRestart
      | .converting, true, false, .a => .ok .adcCaptureStop
      | .done, _, true, .b => .ok .adcDoneRestart
      | .done, _, false, .b => .ok .adcDoneStop
      | .done, _, _, .a => .error .reservedAdcState := by
  obtain ⟨v, e, h, w, y⟩ := c
  cases v <;> cases st <;> cases p <;> cases q <;> rfl

theorem zone_cases (z : BitVec 2) : z = 0 ∨ z = 1 ∨ z = 2 ∨ z = 3 := by
  revert z; decide

/-- The rows of the sequencer, by zone and guard bits. -/
theorem decode_qsel (c : Config) (z : BitVec 2) (t v h : Bool) :
    decode c .qsel ((z ++ BitVec.ofBool t ++ BitVec.ofBool v ++ BitVec.ofBool h).setWidth 16) =
      if z = 0b00 then .ok (if t = true then .seqTrigger else .seqIdle)
      else if z = 0b01 then .ok (if v = true then .seqAdvance else .seqExposeWait)
      else if z = 0b10 then .ok (if h = true then .seqEolExit else .seqEolTick)
      else .error .reservedZone := by
  rcases zone_cases z with rfl | rfl | rfl | rfl <;> cases t <;> cases v <;> cases h <;> rfl

theorem decode_wsel (c : Config) (w : Bool) :
    decode c .wsel ((BitVec.ofBool w).setWidth 16) = .ok (if w = true then .bufWrite else .bufNowrite) := by
  cases w <;> rfl

theorem bit_cases (b : BitVec 1) : b = 0 ∨ b = 1 := by
  revert b; decide

theorem decode_rsel (c : Config) (b : BitVec 1) :
    decode c .rsel (b.setWidth 16) = .ok (if b = 0 then .bufReadHi else .bufReadLo) := by
  rcases bit_cases b with rfl | rfl <;> rfl

theorem decode_dsel (c : Config) (st : DmpState) (d r l : Bool) (b : BitVec 1) (w : Bool) :
    decode c .dsel ((st.code ++ BitVec.ofBool d ++ BitVec.ofBool r ++ BitVec.ofBool l ++ b ++ BitVec.ofBool w).setWidth 16) =
      .ok (match st with
        | .idle => if d = true then .dmpTrigger else .dmpIdle
        | .sync => .dmpSync
        | .send => if b = 0 then .dmpSendHi else if w = true then .dmpSendLast else .dmpSendLo
        | .wait => if r = true then (if l = true then .dmpAcceptLast else .dmpAcceptNext) else .dmpWaitHold
        | .done => .dmpDone) := by
  rcases bit_cases b with rfl | rfl <;> cases st <;> cases d <;> cases r <;> cases l <;> cases w <;> rfl

/-! ## Selection (R72) -/

theorem select_asel (s : State) (hl : legal s = true) :
    select s .asel = .ok (match s.adc.state, p15 s, convert s, s.cfg.adcVariant with
      | .idle, _, false, _ => .adcHold
      | .idle, _, true, _ => .adcStart
      | .converting, false, _, _ => .adcShift
      | .converting, true, _, .b => .adcCapture
      | .converting, true, true, .a => .adcCaptureRestart
      | .converting, true, false, .a => .adcCaptureStop
      | .done, _, true, _ => .adcDoneRestart
      | .done, _, false, _ => .adcDoneStop) := by
  have hv : s.adc.state = .done → s.cfg.adcVariant = .b := by
    intro h
    simp only [legal, adcLegal, h, Bool.and_eq_true] at hl
    exact eq_of_beq hl.1.1.1.2
  simp only [select, selectorWord, aselWord, decode_asel, reduceCtorEq, false_and, if_false]
  cases hs : s.adc.state <;> cases p15 s <;> cases convert s <;> cases hc : s.cfg.adcVariant <;> simp_all

theorem select_qsel (s : State) (hl : legal s = true) (ht : tauRefused s = false) :
    select s .qsel = .ok (
      if s.seq.pix.toNat = 0 then (if s.inp.scanTrigger = true then .seqTrigger else .seqIdle)
      else if s.seq.pix.toNat ≤ 127 then (if s.adc.valid = true then .seqAdvance else .seqExposeWait)
      else (if tauHit s = true then .seqEolExit else .seqEolTick)) := by
  have hp : s.seq.pix.toNat ≤ 128 := by
    simp only [legal, seqLegal, Bool.and_eq_true, decide_eq_true_eq] at hl
    exact hl.1.2.1
  simp only [select, ht, selectorWord, qselWord, decode_qsel, zone, Bool.false_eq_true, and_false, if_false]
  by_cases h0 : s.seq.pix.toNat = 0
  · simp [h0]
  · by_cases h1 : s.seq.pix.toNat ≤ 127
    · simp [h0, h1]
    · have h2 : s.seq.pix.toNat = 128 := by omega
      simp [h2]

theorem select_qsel_refused (s : State) (ht : tauRefused s = true) : select s .qsel = .error .tauZero := by
  simp [select, ht]

theorem select_wsel (s : State) : select s .wsel = .ok (if wrEn s = true then .bufWrite else .bufNowrite) := by
  simp only [select, selectorWord, wselWord, decode_wsel, reduceCtorEq, false_and, if_false]

theorem select_rsel (s : State) : select s .rsel = .ok (if s.dmp.byteIdx = 0 then .bufReadHi else .bufReadLo) := by
  simp only [select, selectorWord, rselWord, decode_rsel, reduceCtorEq, false_and, if_false]

theorem select_dsel (s : State) :
    select s .dsel = .ok (match s.dmp.state with
      | .idle => if s.inp.dumpTrigger = true then .dmpTrigger else .dmpIdle
      | .sync => .dmpSync
      | .send => if s.dmp.byteIdx = 0 then .dmpSendHi else if w127 s = true then .dmpSendLast else .dmpSendLo
      | .wait => if s.inp.sinkReady = true then (if s.dmp.lastByteSent = true then .dmpAcceptLast else .dmpAcceptNext)
          else .dmpWaitHold
      | .done => .dmpDone) := by
  simp only [select, selectorWord, dselWord, decode_dsel, reduceCtorEq, false_and, if_false]

/-! ## The guard -/

/-- What a guarded meaning can answer: its effect, where nothing stands against it, and one of the named refusals else. -/
theorem guarded_next_iff (s t : State) (sel : Except Refusal Unit) (eff : State → State) :
    guarded s sel eff = .next t ↔ s.inp.rst = false ∧ legal s = true ∧ sel = .ok () ∧ t = eff s := by
  unfold guarded
  cases s.inp.rst <;> cases legal s <;> rcases sel with r | u <;> simp [eq_comm]

theorem selected_ok_iff (op : Instr) (s : State) : selected op s = .ok () ↔ select s op.format = .ok op := by
  unfold selected
  cases select s op.format with
  | error r => simp
  | ok i => by_cases h : i = op <;> simp [h]

/-- A meaning of the map answers a next state exactly where it is selected, and then it is its effect. -/
theorem perform_next_iff (op : Instr) (s t : State) (eff : State → State) :
    perform op s eff = .next t ↔
      s.inp.rst = false ∧ legal s = true ∧ select s op.format = .ok op ∧ t = eff s := by
  rw [perform, guarded_next_iff, selected_ok_iff]

theorem perform_of_selected {op : Instr} {s : State} (eff : State → State) (hr : s.inp.rst = false)
    (hl : legal s = true) (h : select s op.format = .ok op) : perform op s eff = .next (eff s) :=
  (perform_next_iff op s _ eff).2 ⟨hr, hl, h, rfl⟩

theorem performAt_next_iff (here : Bool) (s t : State) (eff : State → State) :
    performAt here s eff = .next t ↔ s.inp.rst = false ∧ legal s = true ∧ here = true ∧ t = eff s := by
  rw [performAt, guarded_next_iff]
  cases here <;> simp

/-! ## The cycle -/

theorem andThen_next_iff (o : Host.Outcome State Fault Refusal) (f : State → Host.Outcome State Fault Refusal)
    (t : State) : andThen o f = .next t ↔ ∃ s, o = .next s ∧ f s = .next t := by
  cases o <;> simp [andThen]

/-- What joining the five operations can answer a next state from. -/
theorem joinCycle_next_iff (s t : State) (a q w r d : Host.Outcome State Fault Refusal) :
    joinCycle s a q w r d = .next t ↔
      ∃ sa sq sw sr sd, a = .next sa ∧ q = .next sq ∧ w = .next sw ∧ r = .next sr ∧ d = .next sd ∧
        t = mergeEngines s sa sq sw sd := by
  simp only [joinCycle, andThen_next_iff, Host.Outcome.next.injEq]
  constructor
  · rintro ⟨sa, ha, sq, hq, sw, hw, sr, hr, sd, hd, rfl⟩
    exact ⟨sa, sq, sw, sr, sd, ha, hq, hw, hr, hd, rfl⟩
  · rintro ⟨sa, sq, sw, sr, sd, ha, hq, hw, hr, hd, rfl⟩
    exact ⟨sa, ha, sq, hq, sw, hw, sr, hr, sd, hd, rfl⟩

/-- What one step can answer a next state from: a reset cycle, or the five selected operations. -/
theorem step_next_iff (s t : State) :
    step s = .next t ↔
      (s.inp.rst = true ∧ t = tick (resetEdge s)) ∨
      (s.inp.rst = false ∧ ∃ ops, fetch s = .ok ops ∧
        ∃ sa sq sw sr sd, exec ops.adc s = .next sa ∧ exec ops.seq s = .next sq ∧ exec ops.wr s = .next sw ∧
          exec ops.rd s = .next sr ∧ exec ops.dmp s = .next sd ∧ t = mergeEngines s sa sq sw sd) := by
  unfold step
  cases s.inp.rst
  · cases hf : fetch s with
    | error r => simp
    | ok ops => simp [joinCycle_next_iff]
  · simp [eq_comm]

/-- What a cycle fetches: the five selections, in a state that keeps R32. -/
theorem fetch_ok_iff (s : State) (ops : CycleOps) :
    fetch s = .ok ops ↔ legal s = true ∧ select s .asel = .ok ops.adc ∧ select s .qsel = .ok ops.seq ∧
      select s .wsel = .ok ops.wr ∧ select s .rsel = .ok ops.rd ∧ select s .dsel = .ok ops.dmp := by
  unfold fetch
  cases legal s
  · simp
  · obtain ⟨a, q, w, r, d⟩ := ops
    cases select s .asel <;> cases select s .qsel <;> cases select s .wsel <;> cases select s .rsel <;>
      cases select s .dsel <;> simp [bind, Except.bind]

end Sys2Proof.Machine
end

