-- ==== Sys2Proof/Laws/Memory.lean ====
section
/-! SUPPORT. The laws of the LineBuffer: the slices of a word (R205), read after write at a byte, the canonical form kept by
every operation. -/

namespace Sys2Proof.Machine

/-- {hi(w)[3:0], lo(w)} = w (R205). -/
@[simp] theorem wordOf_hiByte_loByte (w : Sample) : wordOf (hiByte w) (loByte w) = w := by
  apply BitVec.eq_of_getLsbD_eq
  intro i hi
  simp only [wordOf, hiByte, loByte, BitVec.getLsbD_append, BitVec.getLsbD_extractLsb', BitVec.getLsbD_setWidth]
  by_cases h : i < 8
  · simp [h]
  · have h1 : i - 8 < 4 := by omega
    have h2 : 8 + (i - 8) = i := by omega
    have h3 : i - 8 < 8 := by omega
    simp [h, h1, h2, h3]

/-- A high byte has no padding bit set (R46, R63). -/
theorem hiByte_lt (w : Sample) : (hiByte w).toNat < 16 := by
  have h := (w.extractLsb' 8 4).isLt
  simp only [hiByte, BitVec.toNat_setWidth]
  omega

theorem memWfFrom_mono {lo lo' : Nat} (h : lo' ≤ lo) {m : Memory} (hw : memWfFrom lo m = true) :
    memWfFrom lo' m = true := by
  cases m with
  | nil => rfl
  | cons c m =>
    obtain ⟨a, v⟩ := c
    simp only [memWfFrom, Bool.and_eq_true, decide_eq_true_eq] at hw ⊢
    exact ⟨⟨⟨⟨by omega, hw.1.1.1.2⟩, hw.1.1.2⟩, hw.1.2⟩, hw.2⟩

/-- Below the first address a canonical memory lists nothing. -/
theorem readByte_below {lo k : Nat} {m : Memory} (hw : memWfFrom lo m = true) (hk : k < lo) :
    readByte m k = unlistedByte := by
  induction m generalizing lo with
  | nil => rfl
  | cons c m ih =>
    obtain ⟨a, v⟩ := c
    simp only [memWfFrom, Bool.and_eq_true, decide_eq_true_eq] at hw
    have hne : a ≠ k := by omega
    simp only [readByte, hne, if_false]
    exact ih hw.2 (by omega)

/-- Read after write: the byte written reads as written, every other byte as before. -/
theorem readByte_writeByte {lo : Nat} {m : Memory} (hw : memWfFrom lo m = true) (k : Nat) (v : Byte) (j : Nat) :
    readByte (writeByte m k v) j = if j = k then v else readByte m j := by
  induction m generalizing lo with
  | nil =>
    by_cases hv : v = unlistedByte <;> by_cases hj : k = j <;>
      simp [writeByte, readByte, hv, hj, eq_comm (a := j)]
  | cons c m ih =>
    obtain ⟨a, x⟩ := c
    have hw' := hw
    simp only [memWfFrom, Bool.and_eq_true, decide_eq_true_eq] at hw
    have htail := hw.2
    by_cases h1 : a < k
    · by_cases hj : a = j
      · subst hj
        have : a ≠ k := by omega
        simp [writeByte, h1, readByte, this]
      · simp only [writeByte, h1, if_true, readByte, hj, if_false]
        exact ih htail
    · by_cases h2 : a = k
      · subst h2
        by_cases hv : v = unlistedByte
        · subst hv
          by_cases hj : j = a
          · subst hj
            simp [writeByte, readByte_below htail (Nat.lt_succ_self j)]
          · have hj' : a ≠ j := fun h => hj h.symm
            simp [writeByte, readByte, hj, hj']
        · by_cases hj : j = a
          · simp [writeByte, hv, readByte, hj]
          · have hj' : a ≠ j := fun h => hj h.symm
            simp [writeByte, hv, readByte, hj, hj']
      · by_cases hv : v = unlistedByte
        · subst hv
          by_cases hj : j = k
          · subst hj
            have hlt : j < a := by omega
            have hne : a ≠ j := h2
            simp [writeByte, h1, h2, readByte, readByte_below htail (show j < a + 1 by omega)]
          · simp [writeByte, h1, h2, hj]
        · by_cases hj : j = k
          · simp [writeByte, h1, h2, hv, readByte, hj]
          · have hj' : k ≠ j := fun h => hj h.symm
            simp [writeByte, h1, h2, hv, readByte, hj, hj']

/-- A byte store keeps the canonical form. -/
theorem memWfFrom_writeByte {lo : Nat} {m : Memory} (hw : memWfFrom lo m = true) {k : Nat} {v : Byte} (hlo : lo ≤ k)
    (hk : k < 256) (hv : k % 2 = 1 ∨ v.toNat < 16) : memWfFrom lo (writeByte m k v) = true := by
  induction m generalizing lo with
  | nil =>
    by_cases h : v = unlistedByte
    · simp [writeByte, h, memWfFrom]
    · simp [writeByte, h, memWfFrom, hlo, hk, hv]
  | cons c m ih =>
    obtain ⟨a, x⟩ := c
    have hw' := hw
    simp only [memWfFrom, Bool.and_eq_true, decide_eq_true_eq] at hw
    by_cases h1 : a < k
    · simp only [writeByte, h1, if_true, memWfFrom, Bool.and_eq_true, decide_eq_true_eq]
      exact ⟨hw.1, ih hw.2 (by omega)⟩
    · by_cases h2 : a = k
      · subst h2
        by_cases h : v = unlistedByte
        · simp only [writeByte, h1, if_false, h, if_true]
          exact memWfFrom_mono (by omega) hw.2
        · simp [writeByte, h, memWfFrom, hlo, hk, hv, hw.2]
      · by_cases h : v = unlistedByte
        · simpa [writeByte, h1, h2, h] using hw'
        · have htail : memWfFrom (k + 1) ((a, x) :: m) = true := by
            simp only [memWfFrom, Bool.and_eq_true, decide_eq_true_eq]
            exact ⟨⟨⟨⟨by omega, hw.1.1.1.2⟩, hw.1.1.2⟩, hw.1.2⟩, hw.2⟩
          simp only [writeByte, h1, h2, h, if_false]
          rw [memWfFrom, htail]
          simp [hlo, hk, hv, h]

/-- A word store keeps the canonical form. -/
theorem wf_writeWord {m : Memory} (hw : Memory.wf m = true) (i : WordAddr) (v : Sample) :
    Memory.wf (writeWord m i v) = true := by
  have hi := i.isLt
  have h1 : memWfFrom 0 (writeByte m (2 * i.toNat) (hiByte v)) = true :=
    memWfFrom_writeByte hw (by omega) (by omega) (.inr (hiByte_lt v))
  exact memWfFrom_writeByte h1 (by omega) (by omega) (.inl (by omega))

/-- The bytes of a memory after a word store. -/
theorem readByte_writeWord {m : Memory} (hw : Memory.wf m = true) (i : WordAddr) (v : Sample) (j : Nat) :
    readByte (writeWord m i v) j =
      if j = 2 * i.toNat + 1 then loByte v else if j = 2 * i.toNat then hiByte v else readByte m j := by
  have hi := i.isLt
  have h1 : memWfFrom 0 (writeByte m (2 * i.toNat) (hiByte v)) = true :=
    memWfFrom_writeByte hw (by omega) (by omega) (.inr (hiByte_lt v))
  rw [writeWord, readByte_writeByte h1, readByte_writeByte hw]

/-- The memory of the reset state has the canonical form. -/
theorem wf_reset : Memory.wf State.reset.mem = true := rfl

end Sys2Proof.Machine
end

