-- ==== Sys2Proof/Laws/PerInstr.lean ====
section
/-! SUPPORT. The statements made for every instruction, one lemma per constructor. -/

namespace Sys2Proof.Laws

/-- The encoder's word fits the width of the row's format, and a row of the operation map (R72) that is this instruction's
matches it. -/
def EncodingFitsTable.Statement (i : Instr) : Prop :=
  ∀ c : Config, (encode c i).toNat < 2 ^ formatWidth i.format ∧
    ∀ r ∈ rowsOf i.format, r.op = i → r.selectedBy (encode c i) = true

theorem EncodingFitsTable.adcHold : EncodingFitsTable.Statement .adcHold := by
  intro c; simp only [encode, Instr.format]; exact ⟨by decide, by decide⟩

theorem EncodingFitsTable.adcStart : EncodingFitsTable.Statement .adcStart := by
  intro c; simp only [encode, Instr.format]; exact ⟨by decide, by decide⟩

theorem EncodingFitsTable.adcShift : EncodingFitsTable.Statement .adcShift := by
  intro c; simp only [encode, Instr.format]; exact ⟨by decide, by decide⟩

theorem EncodingFitsTable.adcCapture : EncodingFitsTable.Statement .adcCapture := by
  intro c; simp only [encode, Instr.format]; exact ⟨by decide, by decide⟩

theorem EncodingFitsTable.adcCaptureRestart : EncodingFitsTable.Statement .adcCaptureRestart := by
  intro c; simp only [encode, Instr.format]; exact ⟨by decide, by decide⟩

theorem EncodingFitsTable.adcCaptureStop : EncodingFitsTable.Statement .adcCaptureStop := by
  intro c; simp only [encode, Instr.format]; exact ⟨by decide, by decide⟩

theorem EncodingFitsTable.adcDoneRestart : EncodingFitsTable.Statement .adcDoneRestart := by
  intro c; simp only [encode, Instr.format]; exact ⟨by decide, by decide⟩

theorem EncodingFitsTable.adcDoneStop : EncodingFitsTable.Statement .adcDoneStop := by
  intro c; simp only [encode, Instr.format]; exact ⟨by decide, by decide⟩

theorem EncodingFitsTable.seqIdle : EncodingFitsTable.Statement .seqIdle := by
  intro c; simp only [encode, Instr.format]; exact ⟨by decide, by decide⟩

theorem EncodingFitsTable.seqTrigger : EncodingFitsTable.Statement .seqTrigger := by
  intro c; simp only [encode, Instr.format]; exact ⟨by decide, by decide⟩

theorem EncodingFitsTable.seqExposeWait : EncodingFitsTable.Statement .seqExposeWait := by
  intro c; simp only [encode, Instr.format]; exact ⟨by decide, by decide⟩

theorem EncodingFitsTable.seqAdvance : EncodingFitsTable.Statement .seqAdvance := by
  intro c; simp only [encode, Instr.format]; exact ⟨by decide, by decide⟩

theorem EncodingFitsTable.seqEolTick : EncodingFitsTable.Statement .seqEolTick := by
  intro c; simp only [encode, Instr.format]; exact ⟨by decide, by decide⟩

theorem EncodingFitsTable.seqEolExit : EncodingFitsTable.Statement .seqEolExit := by
  intro c; simp only [encode, Instr.format]; exact ⟨by decide, by decide⟩

theorem EncodingFitsTable.bufNowrite : EncodingFitsTable.Statement .bufNowrite := by
  intro c; simp only [encode, Instr.format]; exact ⟨by decide, by decide⟩

theorem EncodingFitsTable.bufWrite : EncodingFitsTable.Statement .bufWrite := by
  intro c; simp only [encode, Instr.format]; exact ⟨by decide, by decide⟩

theorem EncodingFitsTable.bufReadHi : EncodingFitsTable.Statement .bufReadHi := by
  intro c; simp only [encode, Instr.format]; exact ⟨by decide, by decide⟩

theorem EncodingFitsTable.bufReadLo : EncodingFitsTable.Statement .bufReadLo := by
  intro c; simp only [encode, Instr.format]; exact ⟨by decide, by decide⟩

theorem EncodingFitsTable.dmpIdle : EncodingFitsTable.Statement .dmpIdle := by
  intro c; simp only [encode, Instr.format]; exact ⟨by decide, by decide⟩

theorem EncodingFitsTable.dmpTrigger : EncodingFitsTable.Statement .dmpTrigger := by
  intro c; simp only [encode, Instr.format]; exact ⟨by decide, by decide⟩

theorem EncodingFitsTable.dmpSync : EncodingFitsTable.Statement .dmpSync := by
  intro c; simp only [encode, Instr.format]; exact ⟨by decide, by decide⟩

theorem EncodingFitsTable.dmpSendHi : EncodingFitsTable.Statement .dmpSendHi := by
  intro c; simp only [encode, Instr.format]; exact ⟨by decide, by decide⟩

theorem EncodingFitsTable.dmpSendLo : EncodingFitsTable.Statement .dmpSendLo := by
  intro c; simp only [encode, Instr.format]; exact ⟨by decide, by decide⟩

theorem EncodingFitsTable.dmpSendLast : EncodingFitsTable.Statement .dmpSendLast := by
  intro c; simp only [encode, Instr.format]; exact ⟨by decide, by decide⟩

theorem EncodingFitsTable.dmpWaitHold : EncodingFitsTable.Statement .dmpWaitHold := by
  intro c; simp only [encode, Instr.format]; exact ⟨by decide, by decide⟩

theorem EncodingFitsTable.dmpAcceptNext : EncodingFitsTable.Statement .dmpAcceptNext := by
  intro c; simp only [encode, Instr.format]; exact ⟨by decide, by decide⟩

theorem EncodingFitsTable.dmpAcceptLast : EncodingFitsTable.Statement .dmpAcceptLast := by
  intro c; simp only [encode, Instr.format]; exact ⟨by decide, by decide⟩

theorem EncodingFitsTable.dmpDone : EncodingFitsTable.Statement .dmpDone := by
  intro c; simp only [encode, Instr.format]; exact ⟨by decide, by decide⟩

theorem EncodingFitsTable.wireAdcFrame (lead : BitVec 4) (data : Sample) :
    EncodingFitsTable.Statement (.wireAdcFrame lead data) :=
  fun _ => ⟨(lead ++ data).isLt, fun _ h => nomatch h⟩

theorem EncodingFitsTable.wireDumpSync : EncodingFitsTable.Statement .wireDumpSync := by
  intro c
  refine ⟨?_, fun _ h => nomatch h⟩
  have h := c.syncByte.isLt
  simp only [encode, Instr.format, formatWidth, BitVec.toNat_setWidth]
  omega

theorem EncodingFitsTable.wireDumpHi (h : BitVec 4) : EncodingFitsTable.Statement (.wireDumpHi h) := by
  intro c
  refine ⟨?_, fun _ h => nomatch h⟩
  have hl := h.isLt
  simp only [encode, Instr.format, formatWidth, BitVec.toNat_setWidth]
  omega

theorem EncodingFitsTable.wireDumpLo (l : BitVec 8) : EncodingFitsTable.Statement (.wireDumpLo l) := by
  intro c
  refine ⟨?_, fun _ h => nomatch h⟩
  have hl := l.isLt
  simp only [encode, Instr.format, formatWidth, BitVec.toNat_setWidth]
  omega

end Sys2Proof.Laws
end

