-- ==== Sys2Proof/Machine/Trace.lean ====
section
/-! DEFINITION. Stimulus traces (R75, R76), the "programs" of this hardware (decision D1), with the ADC device model of R92 and
the sinks of R76. A trace drives the ports of the core, compares what a cycle shows, and records what R75 lets it expect: the
transferred bytes and the LineBuffer writes. Nothing here is part of the core. -/

namespace Sys2Proof.Machine

/-! ## Poison: the bits of a trace's state that are `any` (R75; log entry 21)

The core moves Samples and bytes and never computes on them (R200), so which bits are `any` moves with them and nothing else
depends on it. -/

/-- Which bits of the four pieces of state that can hold `any` (R33) are known: a bit marked 0 is poisoned. The LineBuffer's
marks stand as a memory of their own, in which nothing listed is nothing known. -/
structure Known where
  sr : BitVec 12
  sample : Sample
  txData : Byte
  mem : Memory
  deriving DecidableEq, Repr

/-- The reset state of R33 as a trace begins with it: every `any` value poisoned, each of the 128 words among them. -/
def Known.start : Known := { sr := 0, sample := 0, txData := 0, mem := [] }

/-- `sr`, `sample` and `tx_data` drawn afresh by a reset edge (R170); the words keep their marks (R56). -/
def Known.redraw (k : Known) : Known := { k with sr := 0, sample := 0, txData := 0 }

/-- The marks of word `i`. -/
def Known.word (k : Known) (i : WordAddr) : Sample := readWord k.mem i

/-- The marks of the byte on the read port; the padding bits of a high byte are known (R46, R122, R123). -/
def Known.rdByte (k : Known) (s : State) : Byte :=
  if s.dmp.byteIdx = 0 then hiByte (k.word (rdAddr s)) ||| 0xF0 else loByte (k.word (rdAddr s))

/-- The marks after a cycle: they go where the cycle moves the bits (R80, R84 to R86, R120, R132 to R135); a bit of `sdata`
and `SYNC_BYTE` are known. -/
def Known.next (k : Known) (s : State) : Known :=
  if s.inp.rst = true then k.redraw
  else
    { sr := shiftIn k.sr true
      sample := if s.adc.state = .converting ∧ p15 s = true then shiftIn k.sr true else k.sample
      txData := match s.dmp.state with
        | .sync => 0xFF
        | .send => k.rdByte s
        | .idle => k.txData
        | .wait => k.txData
        | .done => k.txData
      mem := if wrEn s = true then writeWord k.mem (wrAddr s) k.sample else k.mem }

/-- A value as a trace shows it: `none`, written `??`, where a bit of it is poisoned. DESIGN CHOICE for a value of which some
bits are known (log entry 21). -/
def shown {w : Nat} (value marks : BitVec w) : Option (BitVec w) := if marks = BitVec.allOnes w then some value else none

/-! ## The environment of a trace -/

/-- The input ports a `set` line names (R30). -/
inductive Port where
  | rst
  | scanTrigger
  | dumpTrigger
  | tau
  | sdata
  | sinkReady
  deriving DecidableEq, Repr

/-- Whether a port can hold a value: `tau` one of `TAU_W` bits (R23), a one-bit port 0 or 1. -/
def Port.takes (c : Config) (p : Port) (v : Nat) : Bool := if p = .tau then decide (v < 2 ^ c.tauW) else decide (v < 2)

/-- `set port = value` (R75). -/
def setPort (p : Port) (v : Nat) (i : Inputs) : Inputs :=
  match p with
  | .rst => { i with rst := v == 1 }
  | .scanTrigger => { i with scanTrigger := v == 1 }
  | .dumpTrigger => { i with dumpTrigger := v == 1 }
  | .tau => { i with tau := v }
  | .sdata => { i with sdata := v == 1 }
  | .sinkReady => { i with sinkReady := v == 1 }

/-- The ADC device model of R92: in bit times 4 to 15 of a frame the device drives the bits of `v`, most significant first,
and 0 at any other time (R76). -/
def adcDevice (v : Sample) (s : State) : Bool :=
  s.adc.state == .converting && decide (4 ≤ s.adc.phase.toNat ∧ s.adc.phase.toNat ≤ 15)
    && v.getLsbD (15 - s.adc.phase.toNat)

/-- Who drives `sdata`: the `set` lines, or the device with the value of the n-th conversion (R76). -/
inductive AdcSource where
  | wire
  | device (value : Nat → Sample)

/-- Who drives `sink_ready`: the `set` lines, or one of the sinks of R76. `every k j` is ready in cycle `t` of the trace
exactly when `t mod k = j`, so `k` is at least 1. DESIGN CHOICE: R76 gives no bound on `k` (log entry 30). -/
inductive SinkSource where
  | wire
  | always
  | never
  | every (k j : Nat)

/-- A trace under way: the core, its marks, the cycle number since the trace began, the ports as set, and what has been
recorded. `reports` holds the number of ticks of each `run until` so far (R76). -/
structure Bench where
  state : State
  known : Known
  time : Nat
  ports : Inputs
  adc : AdcSource
  sink : SinkSource
  conversions : Nat
  stream : List (Option Byte)
  writes : List (Nat × WordAddr × Option Sample)
  reports : List Nat

/-- A trace of a core with the parameters `c` that gives no start state: the reset state with its `any` values poisoned, every
port 0 and `tau` 128 (R75). -/
def Bench.begin (c : Config) : Bench :=
  { state := { State.reset with cfg := c }, known := Known.start, time := 0, ports := Inputs.quiet, adc := .wire, sink := .wire
    conversions := 0, stream := [], writes := [], reports := [] }

/-- The number of the conversion a cycle belongs to: the n-th frame whose bit time 0 (R60) is a cycle of the trace is
conversion `n`. A conversion already past bit time 0 in the trace's start state has no number in R76, which counts from 1:
here it is number 0, so `adc = f(n)` drives `f 0` for it. DESIGN CHOICE (log entry 26). -/
def conversionNow (b : Bench) : Nat :=
  if b.state.adc.state = .converting ∧ b.state.adc.phase = 0 then b.conversions + 1 else b.conversions

/-- The values of the six ports in the current cycle. A port that a device drives keeps that driver whatever a later `set`
line says. DESIGN CHOICE (log entry 26). -/
def portsNow (b : Bench) : Inputs :=
  { b.ports with
    sdata := match b.adc with
      | .wire => b.ports.sdata
      | .device f => adcDevice (f (conversionNow b)) b.state
    sinkReady := match b.sink with
      | .wire => b.ports.sinkReady
      | .always => true
      | .never => false
      | .every k j => b.time % k == j }

/-- The core in the current cycle, with the ports driven. -/
def stateNow (b : Bench) : State := { b.state with inp := onPins b.state.cfg (portsNow b), stim := [] }

/-! ## What a trace can name -/

/-- The names an `expect` line can give: the registers (R10 to R21, R27), a word, the input ports (R30), the output ports and
the internal wires (R31); `sclk` has no value within a cycle (log entry 19). `adc_valid` is register and port in one. -/
inductive Name where
  | adcState | phase | sr | sample | adcValid
  | pix | tauCnt | trigLatch
  | mem (i : WordAddr)
  | dmpState | wordIdx | byteIdx | lastByteSent | txData
  | rst | scanTrigger | dumpTrigger | tau | sdata | sinkReady
  | csN | adcSample | sensorStart | sensorClk | sinkData | sinkValid | done
  | convert | wrEn | wrAddr | wrData | rdAddr | rdData | rdByte
  deriving DecidableEq, Repr

/-- A value that is never `any`. -/
def bit (b : Bool) : Option Nat := some b.toNat

/-- A value as a number, or `??`. -/
def shownNat {w : Nat} (value marks : BitVec w) : Option Nat := (shown value marks).map BitVec.toNat

/-- What a name shows in a cycle; a state of an engine by its code (R65, R66). -/
def showIn (s : State) (k : Known) : Name → Option Nat
  | .adcState => some s.adc.state.code.toNat
  | .phase => some s.adc.phase.toNat
  | .sr => shownNat s.adc.sr k.sr
  | .sample => shownNat s.adc.sample k.sample
  | .adcValid => bit s.adc.valid
  | .pix => some s.seq.pix.toNat
  | .tauCnt => some s.seq.tauCnt
  | .trigLatch => bit s.seq.trigLatch
  | .mem i => shownNat (readWord s.mem i) (k.word i)
  | .dmpState => some s.dmp.state.code.toNat
  | .wordIdx => some s.dmp.wordIdx.toNat
  | .byteIdx => some s.dmp.byteIdx.toNat
  | .lastByteSent => bit s.dmp.lastByteSent
  | .txData => shownNat s.dmp.txData k.txData
  | .rst => bit s.inp.rst
  | .scanTrigger => bit s.inp.scanTrigger
  | .dumpTrigger => bit s.inp.dumpTrigger
  | .tau => some s.inp.tau
  | .sdata => bit s.inp.sdata
  | .sinkReady => bit s.inp.sinkReady
  | .csN => bit (outputs s).csN
  | .adcSample => shownNat (outputs s).adcSample k.sample
  | .sensorStart => bit (outputs s).sensorStart
  | .sensorClk => bit (outputs s).sensorClk
  | .sinkData => shownNat (outputs s).sinkData k.txData
  | .sinkValid => bit (outputs s).sinkValid
  | .done => bit (outputs s).done
  | .convert => bit (Machine.convert s)
  | .wrEn => bit (Machine.wrEn s)
  | .wrAddr => some (Machine.wrAddr s).toNat
  | .wrData => shownNat (Machine.wrData s) k.sample
  | .rdAddr => some (Machine.rdAddr s).toNat
  | .rdData => shownNat (Machine.rdData s) (k.word (Machine.rdAddr s))
  | .rdByte => shownNat (Machine.rdByte s) (k.rdByte s)

/-- What a name shows in the current cycle of a trace. -/
def Bench.value (b : Bench) (n : Name) : Option Nat := showIn (stateNow b) b.known n

/-- The three `expect` lines (R75); `none` is the value `??`. -/
inductive Expectation where
  | value (n : Name) (v : Option Nat)
  | stream (bytes : List (Option Byte))
  | writes (ws : List (Nat × WordAddr × Option Sample))
  deriving DecidableEq, Repr

/-- Whether an expectation holds in the current cycle. -/
def Expectation.holds (e : Expectation) (b : Bench) : Bool :=
  match e with
  | .value n v => b.value n == v
  | .stream bytes => b.stream == bytes
  | .writes ws => b.writes == ws

/-! ## The lines -/

/-- Why a trace stops. -/
inductive TraceStop where
  | refused (r : Refusal)  -- the core's next state is refused
  | expectFailed (t : Nat) -- an `expect` line does not hold in cycle `t`
  | badLine                -- no trace of R75, R76: cfg or start after the first tick, two values of a parameter, `tick 0`,
                           -- a value a port or `tau_cnt` cannot hold, `sink = every 0` (log entries 29, 30)
  | outOfFuel              -- `run until` did not meet its condition within its bound
  deriving DecidableEq, Repr

/-- One cycle of a trace (R75): step the core and its marks, and record a transfer (R142) and a write (R120). -/
def benchTick (b : Bench) : Except TraceStop Bench :=
  let s := stateNow b
  match step s with
  | .refused r => .error (.refused r)
  | .next t =>
    .ok { b with
      state := t
      known := b.known.next s
      time := b.time + 1
      conversions := conversionNow b
      stream := match transfer s with
        | some byte => b.stream ++ [shown byte b.known.txData]
        | none => b.stream
      writes := if wrEn s && !s.inp.rst then b.writes ++ [(b.time, wrAddr s, shown (wrData s) b.known.sample)]
        else b.writes }

/-- `n` cycles, one after the other. -/
def benchTicks : Nat → Bench → Except TraceStop Bench
  | 0, b => .ok b
  | n + 1, b =>
    match benchTick b with
    | .ok b' => benchTicks n b'
    | .error e => .error e

/-- A `cfg` line: a parameter of 00_scope.md section 4 that is open, and its value. -/
inductive Param where
  | adcVariant (v : Variant)
  | eolWrite (v : Bool)
  | hasStartPulse (v : Bool)
  | tauW (v : Nat)
  | syncByte (v : Byte)
  deriving DecidableEq, Repr

/-- The parameters with one of them fixed. -/
def Param.fix (x : Param) (c : Config) : Config :=
  match x with
  | .adcVariant v => { c with adcVariant := v }
  | .eolWrite v => { c with eolWrite := v }
  | .hasStartPulse v => { c with hasStartPulse := v }
  | .tauW v => { c with tauW := v }
  | .syncByte v => { c with syncByte := v }

/-- A `start` line: a register, a word or a range of words, and its value. -/
inductive StartValue where
  | adcState (v : AdcState)
  | phase (v : BitVec 5)
  | sr (v : BitVec 12)
  | sample (v : Sample)
  | adcValid (v : Bool)
  | pix (v : BitVec 8)
  | tauCnt (v : Nat)
  | trigLatch (v : Bool)
  | dmpState (v : DmpState)
  | wordIdx (v : WordAddr)
  | byteIdx (v : BitVec 1)
  | lastByteSent (v : Bool)
  | txData (v : Byte)
  | mem (i : WordAddr) (v : Sample)
  | memRange (a b : WordAddr) (v : Sample)
  deriving DecidableEq, Repr

/-- Store one value in words `a` to `b` of a memory. Where `a > b` there is no such word, and nothing is stored: DESIGN CHOICE,
since R75 gives a range no bound (log entry 29). -/
def fillWords (m : Memory) (a b : WordAddr) (v : Sample) : Memory :=
  (List.range (b.toNat + 1 - a.toNat)).foldl (fun m k => writeWord m (a + BitVec.ofNat 7 k) v) m

/-- Whether the register can hold the value: `tau_cnt` has `TAU_W` bits (R27). -/
def StartValue.takes (c : Config) (x : StartValue) : Bool :=
  match x with
  | .tauCnt v => decide (v < 2 ^ c.tauW)
  | _ => true

/-- Put a start value into the core, and mark what it gives as known. -/
def StartValue.put (x : StartValue) (b : Bench) : Bench :=
  let s := b.state
  let k := b.known
  match x with
  | .adcState v => { b with state := s.setAdc { s.adc with state := v } }
  | .phase v => { b with state := s.setAdc { s.adc with phase := v } }
  | .sr v => { b with state := s.setAdc { s.adc with sr := v }, known := { k with sr := 0xFFF } }
  | .sample v => { b with state := s.setAdc { s.adc with sample := v }, known := { k with sample := 0xFFF } }
  | .adcValid v => { b with state := s.setAdc { s.adc with valid := v } }
  | .pix v => { b with state := s.setSeq { s.seq with pix := v } }
  | .tauCnt v => { b with state := s.setSeq { s.seq with tauCnt := v } }
  | .trigLatch v => { b with state := s.setSeq { s.seq with trigLatch := v } }
  | .dmpState v => { b with state := s.setDmp { s.dmp with state := v } }
  | .wordIdx v => { b with state := s.setDmp { s.dmp with wordIdx := v } }
  | .byteIdx v => { b with state := s.setDmp { s.dmp with byteIdx := v } }
  | .lastByteSent v => { b with state := s.setDmp { s.dmp with lastByteSent := v } }
  | .txData v => { b with state := s.setDmp { s.dmp with txData := v }, known := { k with txData := 0xFF } }
  | .mem i v => { b with state := s.setMem (writeWord s.mem i v), known := { k with mem := writeWord k.mem i 0xFFF } }
  | .memRange i j v =>
    { b with state := s.setMem (fillWords s.mem i j v), known := { k with mem := fillWords k.mem i j 0xFFF } }

/-- The lines of a trace: the primitive lines of R75, and of R76 the lines that set a driver and `run until`, whose condition
is any test of the values shown in the current cycle. A trace of the model gives it a bound on its ticks (log entry 27). -/
inductive TraceLine where
  | cfg (x : Param)
  | start (x : StartValue)
  | set (p : Port) (v : Nat)
  | tick (n : Nat)
  | expect (e : Expectation)
  | adc (source : AdcSource)
  | sink (source : SinkSource)
  | runUntil (bound : Nat) (cond : (Name → Option Nat) → Bool)

/-! ## What holds for the whole trace: its `cfg` lines and its start state (R75) -/

/-- The parameters a trace's `cfg` lines fix; the others have their defaults. -/
def cfgOf (ls : List TraceLine) : Config :=
  ls.foldl (fun c l => match l with | .cfg x => x.fix c | _ => c) Config.default

/-- The start state of a trace: its `start` lines over the reset state of the core with the trace's parameters. Of two lines
for one register or word the later one holds. DESIGN CHOICE (log entry 29). -/
def Bench.start (ls : List TraceLine) : Bench :=
  ls.foldl (fun b l => match l with | .start x => x.put b | _ => b) (Bench.begin (cfgOf ls))

/-- Every `cfg` line holds for the whole trace, so no other gives its parameter another value, and every start value fits its
register. -/
def agrees (ls : List TraceLine) : Bool :=
  ls.all (fun l => match l with
    | .cfg x => decide (x.fix (cfgOf ls) = cfgOf ls)
    | .start x => x.takes (cfgOf ls)
    | _ => true)

/-! ## Performing a trace -/

/-- Go on where a line may stand here; no other line is a line of R75 or R76. -/
def allowed (here : Bool) (b : Bench) : Except TraceStop Bench := if here = true then .ok b else .error .badLine

/-- Tick until the condition holds in the current cycle; `n` is the number of ticks so far, which is reported (R76). The
condition is tested before the first tick, so a condition that holds already takes no tick: R76 does not say. DESIGN CHOICE
(log entry 27). -/
def runUntil (cond : (Name → Option Nat) → Bool) : Nat → Nat → Bench → Except TraceStop Bench
  | bound, n, b =>
    if cond b.value = true then .ok { b with reports := b.reports ++ [n] }
    else match bound with
      | 0 => .error .outOfFuel
      | bound + 1 =>
        match benchTick b with
        | .ok b' => runUntil cond bound (n + 1) b'
        | .error e => .error e

/-- Perform one line (R75, R76). A `cfg` or `start` line stands before the first tick, and what it gives holds since the trace
began (`Bench.start`); `tick n` has `n >= 1`. A `set` line acts in the current cycle, which is the next one to be ticked: DEDUCED
(log entry 30). A `sink` line acts from the current cycle on, as R76 says of an `adc` line, and `sink = every 0` is refused:
DESIGN CHOICE (log entry 30). -/
def runLine (l : TraceLine) (b : Bench) : Except TraceStop Bench :=
  match l with
  | .cfg _ => allowed (b.time == 0) b
  | .start _ => allowed (b.time == 0) b
  | .set p v => allowed (p.takes b.state.cfg v) { b with ports := setPort p v b.ports }
  | .tick n => if n = 0 then .error .badLine else benchTicks n b
  | .expect e => if e.holds b = true then .ok b else .error (.expectFailed b.time)
  | .adc a => .ok { b with adc := a }
  | .sink k => allowed (match k with | .every n _ => n != 0 | _ => true) { b with sink := k }
  | .runUntil bound cond => runUntil cond bound 0 b

/-- Perform lines in order. -/
def runLines : List TraceLine → Bench → Except TraceStop Bench
  | [], b => .ok b
  | l :: ls, b =>
    match runLine l b with
    | .ok b' => runLines ls b'
    | .error e => .error e

/-- Perform a trace: its lines in order, from its start state. -/
def runTrace (ls : List TraceLine) : Except TraceStop Bench :=
  if agrees ls = true then runLines ls (Bench.start ls) else .error .badLine

/-- `pulse port n` (R76). -/
def pulse (p : Port) (n : Nat) : List TraceLine := [.set p 1, .tick n, .set p 0]

/-- `scan` (R76). -/
def scanLine : List TraceLine := pulse .scanTrigger 1

/-- `dump` (R76). -/
def dumpLine : List TraceLine := pulse .dumpTrigger 1

/-- `reset` (R76). -/
def resetLine : List TraceLine := pulse .rst 1

/-- `adc = v` (R76). -/
def adcLine (v : Sample) : List TraceLine := [.adc (.device (fun _ => v))]

end Sys2Proof.Machine
end

