-- ==== Sys2Proof/Tests/Slice0.lean ====
section
/-! SUPPORT. Tests. Expected values are the spec's: the patterns of 30_encoding.md section 5, the *Example* line of an
operation's rule, or a vector of 95_test_vectors.md, named at each test. The last part shows, for every statement with
hypotheses, concrete states that meet them all together, at the boundary values of each clause. -/

namespace Sys2Proof.Tests

open Sys2Proof.Machine

/-! ## Small states -/

def cfgA : Config := { Config.default with adcVariant := .a }
def cfgE : Config := { Config.default with eolWrite := true }

/-- The reset state with the sampler and `pix` at given values. -/
def scan (c : Config) (st : AdcState) (ph : BitVec 5) (valid : Bool) (pix : BitVec 8) : State :=
  { State.reset with
    adc := { State.reset.adc with state := st, phase := ph, valid := valid }
    seq := { State.reset.seq with pix := pix }
    cfg := c }

/-- The reset state with the dumper at given values, and a line of one word. -/
def dump (st : DmpState) (w : WordAddr) (b : BitVec 1) (last : Bool) : State :=
  { State.reset with
    dmp := { state := st, wordIdx := w, byteIdx := b, lastByteSent := last, txData := 0x42 }
    mem := writeWord (writeWord [] 0 0x123) 127 0xFED }

/-- END_OF_LINE with a count and a `tau`. -/
def eol (cnt tau : Nat) : State :=
  { scan Config.default .idle 0 false 128 with
    seq := { pix := 128, tauCnt := cnt, trigLatch := false }
    inp := { Inputs.quiet with tau := tau } }

def withInp (f : Inputs → Inputs) (s : State) : State := { s with inp := f s.inp }
def withSr (sr : BitVec 12) (sdata : Bool) (s : State) : State :=
  { s with adc := { s.adc with sr := sr }, inp := { s.inp with sdata := sdata } }
def withSample (v : Sample) (s : State) : State := { s with adc := { s.adc with sample := v } }

/-- The next state, if there is one. -/
def nextOf (o : Host.Outcome State Fault Refusal) : Option State :=
  match o with
  | .next t => some t
  | .refused _ => none
  | .fault _ => none

/-- The refusal, if there is one. -/
def refusalOf (o : Host.Outcome State Fault Refusal) : Option Refusal :=
  match o with
  | .refused r => some r
  | .next _ => none
  | .fault _ => none

/-! ## WellFormed refuses an ill-formed term for each of its checks (R72, the "variants" column) -/

theorem test_wf_capture : wellFormed cfgA .adcCapture = false := by decide
theorem test_wf_capture_restart : wellFormed Config.default .adcCaptureRestart = false := by decide
theorem test_wf_capture_stop : wellFormed Config.default .adcCaptureStop = false := by decide
theorem test_wf_done_restart : wellFormed cfgA .adcDoneRestart = false := by decide
theorem test_wf_done_stop : wellFormed cfgA .adcDoneStop = false := by decide

/-! ## Decoding: a word of every constructor, written from the pattern of its row (an `x` bit at 1 where there is one) -/

theorem test_decode_adc :
    decode Config.default .asel 0b0010 = .ok .adcHold ∧ decode Config.default .asel 0b0001 = .ok .adcStart ∧
    decode Config.default .asel 0b0101 = .ok .adcShift ∧ decode Config.default .asel 0b0111 = .ok .adcCapture ∧
    decode cfgA .asel 0b0111 = .ok .adcCaptureRestart ∧ decode cfgA .asel 0b0110 = .ok .adcCaptureStop ∧
    decode Config.default .asel 0b1011 = .ok .adcDoneRestart ∧ decode Config.default .asel 0b1000 = .ok .adcDoneStop := by
  decide

theorem test_decode_seq :
    decode Config.default .qsel 0b00011 = .ok .seqIdle ∧ decode Config.default .qsel 0b00100 = .ok .seqTrigger ∧
    decode Config.default .qsel 0b01101 = .ok .seqExposeWait ∧ decode Config.default .qsel 0b01110 = .ok .seqAdvance ∧
    decode Config.default .qsel 0b10110 = .ok .seqEolTick ∧ decode Config.default .qsel 0b10001 = .ok .seqEolExit := by
  decide

theorem test_decode_buf :
    decode Config.default .wsel 0b0 = .ok .bufNowrite ∧ decode Config.default .wsel 0b1 = .ok .bufWrite ∧
    decode Config.default .rsel 0b0 = .ok .bufReadHi ∧ decode Config.default .rsel 0b1 = .ok .bufReadLo := by
  decide

theorem test_decode_dmp :
    decode Config.default .dsel 0b00001111 = .ok .dmpIdle ∧ decode Config.default .dsel 0b00010000 = .ok .dmpTrigger ∧
    decode Config.default .dsel 0b00111011 = .ok .dmpSync ∧ decode Config.default .dsel 0b01000001 = .ok .dmpSendHi ∧
    decode Config.default .dsel 0b01011110 = .ok .dmpSendLo ∧ decode Config.default .dsel 0b01000011 = .ok .dmpSendLast ∧
    decode Config.default .dsel 0b01110111 = .ok .dmpWaitHold ∧
    decode Config.default .dsel 0b01111011 = .ok .dmpAcceptNext ∧
    decode Config.default .dsel 0b01101100 = .ok .dmpAcceptLast ∧ decode Config.default .dsel 0b10010000 = .ok .dmpDone := by
  decide

theorem test_decode_wire :
    decode Config.default .adcFrame 0b1010110000110101 = .ok (.wireAdcFrame 0b1010 0b110000110101) ∧
    decode Config.default (.dumpByte 0) 0b01000010 = .ok .wireDumpSync ∧
    decode Config.default (.dumpByte 1) 0b00001001 = .ok (.wireDumpHi 0b1001) ∧
    decode Config.default (.dumpByte 256) 0b10000001 = .ok (.wireDumpLo 0b10000001) := by
  decide

/-- R73, R77, R62: what is reserved or out of place is refused by name. -/
theorem test_decode_refuses :
    decode Config.default .asel 0b1100 = .error .reservedAdcState ∧ decode cfgA .asel 0b1000 = .error .reservedAdcState ∧
    decode Config.default .qsel 0b11000 = .error .reservedZone ∧
    decode Config.default .dsel 0b10100000 = .error .reservedDmpState ∧
    decode Config.default .dsel 0b11111111 = .error .reservedDmpState ∧
    decode Config.default .asel 0b10000 = .error .tooWide ∧
    decode Config.default (.dumpByte 0) 0b01000011 = .error .syncMismatch ∧
    decode Config.default (.dumpByte 3) 0b00010000 = .error .paddingSet ∧
    decode Config.default (.dumpByte 257) 0 = .error .pastFrameEnd := by
  decide

/-- Table words, and the step that runs one of them first after reset. -/
theorem test_table_words :
    decodeTableWord 8 0x43 = some .dmpSendLast ∧ decodeTableWord 8 0x10 = some .seqEolTick ∧
    decodeTableWord 8 0x07 = some .adcCapture ∧ decodeTableWord 16 0xF800 = some (.wireAdcFrame 0xF 0x800) ∧
    ((fetch (State.reset.withFetchWord 8 0x43)).toOption.map (·.dmp)) = some .dmpSendLast ∧
    ((nextOf (step (State.reset.withFetchWord 8 0x43))).map (·.dmp.lastByteSent)) = some true := by
  decide

/-! ## One operation each -/

/-- R81 *Example*: `sdata = 1` shifts in, the engine stays IDLE. -/
theorem test_adcHold : (nextOf (exec .adcHold (withSr 0b011 true State.reset))).map (·.adc) =
    some { state := .idle, phase := 0, sr := 0b111, sample := 0, valid := false } := by decide

/-- R82 *Example*. -/
theorem test_adcStart : (nextOf (exec .adcStart (scan Config.default .idle 0 false 1))).map
    (fun t => (t.adc.state, t.adc.phase, csN t)) = some (.converting, 0, false) := by decide

/-- R83 *Example*: `phase = 4`, `sr = 0`, `sdata = 1`. -/
theorem test_adcShift : (nextOf (exec .adcShift (withSr 0 true (scan Config.default .converting 4 false 1)))).map
    (fun t => (t.adc.phase, t.adc.sr)) = some (5, 0x001) := by decide

/-- R84 *Example*: `sr = 0x400`, `sdata = 0` gives `sample = 0x800`. -/
theorem test_adcCapture : (nextOf (exec .adcCapture (withSr 0x400 false (scan Config.default .converting 15 false 1)))).map
    (fun t => (t.adc.state, t.adc.sample, t.adc.valid, csN t)) = some (.done, 0x800, true, true) := by decide

/-- R85 *Example*. -/
theorem test_adcCaptureRestart : (nextOf (exec .adcCaptureRestart (withSr 0x7FF true (scan cfgA .converting 15 false 1)))).map
    (fun t => (t.adc.state, t.adc.phase, t.adc.sample, t.adc.valid)) = some (.converting, 0, 0xFFF, true) := by decide

/-- R86 *Example*. -/
theorem test_adcCaptureStop : (nextOf (exec .adcCaptureStop (withSample 0x777 (scan cfgA .converting 15 false 0)))).map
    (fun t => (t.adc.state, t.adc.sample, t.adc.valid)) = some (.idle, 0x000, true) := by decide

/-- R87 *Example*. -/
theorem test_adcDoneRestart : (nextOf (exec .adcDoneRestart (scan Config.default .done 16 true 127))).map
    (fun t => (t.adc.state, t.adc.phase, t.adc.valid, csN t)) = some (.converting, 0, false, false) := by decide

/-- R88 *Example*: `sample` unchanged. -/
theorem test_adcDoneStop : (nextOf (exec .adcDoneStop (withSample 0xABC (scan Config.default .done 16 true 128)))).map
    (fun t => (t.adc.state, t.adc.phase, t.adc.sample)) = some (.idle, 0, 0xABC) := by decide

/-- R100: a straggler's pulse in IDLE is ignored. -/
theorem test_seqIdle : (nextOf (exec .seqIdle (scan Config.default .done 16 true 0))).map
    (fun t => (t.seq.pix, t.mem)) = some (0, []) := by decide

/-- R101 *Example*: `tau_cnt = 37`. -/
theorem test_seqTrigger : (nextOf (exec .seqTrigger (withInp (fun i => { i with scanTrigger := true })
    { State.reset with seq := { pix := 0, tauCnt := 37, trigLatch := false } }))).map (·.seq) =
    some { pix := 1, tauCnt := 0, trigLatch := true } := by decide

/-- R102 *Example*: `pix = 5`, a trigger is ignored. -/
theorem test_seqExposeWait : (nextOf (exec .seqExposeWait (withInp (fun i => { i with scanTrigger := true })
    (scan Config.default .idle 0 false 5)))).map (·.seq.pix) = some 5 := by decide

/-- R103 *Example*: `mem[0] = 0x800`. -/
theorem test_seqAdvance : (nextOf (exec .seqAdvance (withSample 0x800 (scan Config.default .done 16 true 1)))).map
    (fun t => (t.seq.pix, readWord t.mem 0, readWord t.mem 1)) = some (2, 0x800, 0) := by decide

/-- R103 corner: from 127 the next value is 128, word 126 written. -/
theorem test_seqAdvance_last : (nextOf (exec .seqAdvance (withSample 0xFFF (scan Config.default .done 16 true 127)))).map
    (fun t => (t.seq.pix, readWord t.mem 126, readWord t.mem 127, convert t)) = some (128, 0xFFF, 0, false) := by decide

/-- R104 *Example*: `tau = 5`, `tau_cnt = 0`. -/
theorem test_seqEolTick : (nextOf (exec .seqEolTick (eol 0 5))).map (fun t => (t.seq.pix, t.seq.tauCnt)) =
    some (128, 1) := by decide

/-- R105 *Example*: `tau = 5`, `tau_cnt = 4`. -/
theorem test_seqEolExit : (nextOf (exec .seqEolExit (eol 4 5))).map (fun t => (t.seq.pix, t.seq.tauCnt)) =
    some (0, 5) := by decide

/-- U1, and V-SEQ-14 with `tau = 0`. -/
theorem test_tau_zero : refusalOf (step (eol 7 0)) = some .tauZero := by decide

/-- R121 *Example*. -/
theorem test_bufNowrite : (nextOf (exec .bufNowrite (withSample 0xFFF (dump .idle 0 0 false)))).map
    (fun t => readWord t.mem 127) = some 0xFED := by decide

/-- R120 *Example*: word 3, old value 0x111, new value 0xABC. -/
theorem test_bufWrite : (nextOf (exec .bufWrite (withSample 0xABC
    { scan Config.default .done 16 true 4 with mem := writeWord [] 3 0x111 }))).map (fun t => readWord t.mem 3) =
    some 0xABC := by decide

/-- R122 and R123 *Example*: 0x123 reads as 0x01 and 0x23. -/
theorem test_bufRead :
    (nextOf (exec .bufReadHi (dump .send 0 0 false))).map rdByte = some 0x01 ∧
    (nextOf (exec .bufReadLo (dump .send 0 1 false))).map rdByte = some 0x23 := by decide

/-- R130: the cursor and the latch keep what the last dump left. -/
theorem test_dmpIdle : (nextOf (exec .dmpIdle (dump .idle 0 0 true))).map (·.dmp.lastByteSent) = some true := by decide

/-- R131 *Example*. -/
theorem test_dmpTrigger : (nextOf (exec .dmpTrigger (withInp (fun i => { i with dumpTrigger := true })
    (dump .idle 0 0 true)))).map (fun t => (t.dmp.state, t.dmp.lastByteSent)) = some (.sync, false) := by decide

/-- R132 *Example*. -/
theorem test_dmpSync : (nextOf (exec .dmpSync (dump .sync 0 0 false))).map
    (fun t => (t.dmp.state, t.dmp.txData, sinkValid t)) = some (.wait, 0x42, true) := by decide

/-- R133 *Example*. -/
theorem test_dmpSendHi : (nextOf (exec .dmpSendHi (dump .send 0 0 false))).map (·.dmp) =
    some { state := .wait, wordIdx := 0, byteIdx := 1, lastByteSent := false, txData := 0x01 } := by decide

/-- R134 *Example*. -/
theorem test_dmpSendLo : (nextOf (exec .dmpSendLo (dump .send 0 1 false))).map (·.dmp) =
    some { state := .wait, wordIdx := 1, byteIdx := 0, lastByteSent := false, txData := 0x23 } := by decide

/-- R135 *Example*. -/
theorem test_dmpSendLast : (nextOf (exec .dmpSendLast (dump .send 127 1 false))).map (·.dmp) =
    some { state := .wait, wordIdx := 0, byteIdx := 0, lastByteSent := true, txData := 0xED } := by decide

/-- R136 *Example*. -/
theorem test_dmpWaitHold : (nextOf (exec .dmpWaitHold (dump .wait 0 0 false))).map
    (fun t => (sinkValid t, t.dmp.txData, transfer t)) = some (true, 0x42, none) := by decide

/-- R137 and R138 *Example*: the byte is transferred, and SEND or DONE follows. -/
theorem test_dmpAccept :
    transfer (withInp (fun i => { i with sinkReady := true }) (dump .wait 0 0 false)) = some 0x42 ∧
    (nextOf (exec .dmpAcceptNext (withInp (fun i => { i with sinkReady := true }) (dump .wait 0 0 false)))).map
      (·.dmp.state) = some .send ∧
    (nextOf (exec .dmpAcceptLast (withInp (fun i => { i with sinkReady := true }) (dump .wait 0 0 true)))).map
      (·.dmp.state) = some .done := by decide

/-- R139 *Example*. -/
theorem test_dmpDone : donePulse (dump .done 0 0 true) = true ∧
    (nextOf (exec .dmpDone (dump .done 0 0 true))).map (fun t => (t.dmp.state, donePulse t)) = some (.idle, false) := by
  decide

/-- R61's scenario: the data bits 100000000000 give 0x800, whatever the leading bits are (R77). -/
theorem test_wireAdcFrame : (nextOf (exec (.wireAdcFrame 0b1111 0b100000000000)
    (scan Config.default .converting 15 false 1))).map (·.adc.sample) = some 0x800 := by decide

/-- R63's example: the bytes of 0x123, 0x456 after the sync byte 0x42. -/
theorem test_wireDump :
    (frameOf Config.default [0x123, 0x456]) = [0x42, 0x01, 0x23, 0x04, 0x56] ∧
    (nextOf (exec .wireDumpSync (dump .sync 0 0 false))).map (·.dmp.txData) = some 0x42 ∧
    (nextOf (exec (.wireDumpHi 0x1) (dump .send 0 0 false))).map (·.dmp.txData) = some 0x01 ∧
    (nextOf (exec (.wireDumpLo 0x23) (dump .send 0 1 false))).map (·.dmp.txData) = some 0x23 := by decide

/-- R5: an operation is not performed in a reset cycle, or where its selector does not name it. -/
theorem test_exec_refuses :
    refusalOf (exec .adcHold (withInp (fun i => { i with rst := true }) State.reset)) = some .resetCycle ∧
    refusalOf (exec .adcStart State.reset) = some .notSelected ∧
    refusalOf (exec .adcHold (scan cfgA .done 16 false 0)) = some .illegalState := by decide

/-- R45: the dumper reads the old word in the cycle of the write. -/
theorem test_step_race : (nextOf (step (withSample 0x9AB
    { dump .send 0 0 false with
      adc := { State.reset.adc with state := .done, phase := 16, valid := true, sample := 0x9AB }
      seq := { State.reset.seq with pix := 1 } }))).map (fun t => (t.dmp.txData, readWord t.mem 0, t.seq.pix)) =
    some (0x01, 0x9AB, 2) := by decide

/-- R170: reset wins over a write and a trigger; the words stay. -/
theorem test_step_reset : (nextOf (step (withInp (fun i => { i with rst := true, scanTrigger := true })
    { dump .send 5 1 false with
      adc := { State.reset.adc with state := .done, phase := 16, valid := true, sample := 0x9AB }
      seq := { State.reset.seq with pix := 1 } }))).map
    (fun t => (t.seq.pix, t.dmp.state, t.adc.valid, readWord t.mem 0)) = some (0, .idle, false, 0x123) := by decide

/-! ## Witnesses: for each statement with hypotheses, states that meet them together, at the boundaries of each clause -/

def latched (s : State) : State := { s with seq := { s.seq with trigLatch := true } }
def eolE : State := scan cfgE .done 16 true 128

theorem witness_AdcHoldStaysIdleAndShifts :
    (∃ s, Ready s ∧ s.adc.state = .idle ∧ ¬ Exposing s ∧ s.adc.valid = true) ∧
    ∃ s, Ready s ∧ s.adc.state = .idle ∧ ¬ Exposing s ∧ s.seq.pix = 128 := by
  unfold Ready Exposing
  exact ⟨⟨scan cfgA .idle 0 true 0, by decide⟩, ⟨scan Config.default .idle 0 false 128, by decide⟩⟩

theorem witness_AdcStartEntersConverting :
    (∃ s, Ready s ∧ s.adc.state = .idle ∧ Exposing s ∧ s.seq.pix = 1) ∧
    ∃ s, Ready s ∧ s.adc.state = .idle ∧ Exposing s ∧ s.seq.pix = 127 := by
  unfold Ready Exposing
  exact ⟨⟨scan Config.default .idle 0 false 1, by decide⟩, ⟨scan cfgA .idle 0 true 127, by decide⟩⟩

theorem witness_AdcShiftAdvancesPhase :
    (∃ s, Ready s ∧ s.adc.state = .converting ∧ s.adc.phase.toNat = 0 ∧ s.adc.valid = true) ∧
    ∃ s, Ready s ∧ s.adc.state = .converting ∧ s.adc.phase.toNat = 14 := by
  unfold Ready
  exact ⟨⟨scan cfgA .converting 0 true 1, by decide⟩, ⟨scan Config.default .converting 14 false 0, by decide⟩⟩

theorem witness_AdcCaptureLatchesShiftedSample :
    ∃ s, Ready s ∧ s.cfg.adcVariant = .b ∧ s.adc.state = .converting ∧ s.adc.phase = 15 := by
  unfold Ready
  exact ⟨scan Config.default .converting 15 false 128, by decide⟩

theorem witness_AdcCaptureRestartKeepsConverting :
    ∃ s, Ready s ∧ s.cfg.adcVariant = .a ∧ s.adc.state = .converting ∧ s.adc.phase = 15 ∧ Exposing s := by
  unfold Ready Exposing
  exact ⟨scan cfgA .converting 15 false 127, by decide⟩

theorem witness_AdcCaptureStopGoesIdle :
    ∃ s, Ready s ∧ s.cfg.adcVariant = .a ∧ s.adc.state = .converting ∧ s.adc.phase = 15 ∧ ¬ Exposing s := by
  unfold Ready Exposing
  exact ⟨scan cfgA .converting 15 false 128, by decide⟩

theorem witness_AdcDoneLastsOneCycle :
    (∃ s, Ready s ∧ s.adc.state = .done ∧ s.adc.valid = true ∧ Exposing s) ∧
    ∃ s, Ready s ∧ s.adc.state = .done ∧ s.adc.valid = true ∧ ¬ Exposing s := by
  unfold Ready Exposing
  exact ⟨⟨scan Config.default .done 16 true 127, by decide⟩, ⟨scan Config.default .done 16 true 128, by decide⟩⟩

theorem witness_SeqIdleHoldsPixAndTauCnt :
    ∃ s, Ready s ∧ s.seq.pix = 0 ∧ s.inp.scanTrigger = false ∧ s.adc.valid = true := by
  unfold Ready
  exact ⟨scan Config.default .done 16 true 0, by decide⟩

theorem witness_SeqTriggerStartsAScan :
    ∃ s, Ready s ∧ s.seq.pix = 0 ∧ s.inp.scanTrigger = true := by
  unfold Ready
  exact ⟨withInp (fun i => { i with scanTrigger := true }) State.reset, by decide⟩

theorem witness_SeqExposeWaitHoldsPix :
    (∃ s, Ready s ∧ Exposing s ∧ s.adc.valid = false ∧ s.seq.trigLatch = true) ∧
    ∃ s, Ready s ∧ Exposing s ∧ s.adc.valid = false ∧ s.seq.pix = 127 := by
  unfold Ready Exposing
  exact ⟨⟨latched (scan Config.default .idle 0 false 1), by decide⟩, ⟨scan cfgA .converting 3 false 127, by decide⟩⟩

theorem witness_SeqAdvanceCountsAndStoresTheSample :
    (∃ s, Ready s ∧ Exposing s ∧ s.adc.valid = true ∧ Memory.wf s.mem = true ∧ s.seq.pix = 1) ∧
    ∃ s, Ready s ∧ Exposing s ∧ s.adc.valid = true ∧ Memory.wf s.mem = true ∧ s.seq.pix = 127 := by
  unfold Ready Exposing
  exact ⟨⟨scan Config.default .done 16 true 1, by decide⟩, ⟨scan cfgA .converting 0 true 127, by decide⟩⟩

/-- The invariant of a state of END_OF_LINE at the top of the range of R201. -/
theorem inv_eol_top : Inv (eol 65534 65535) := by
  constructor <;> (try unfold Exposing) <;> decide

theorem inv_eol_first : Inv (eol 0 2) := by
  constructor <;> (try unfold Exposing) <;> decide

theorem inv_eol_only : Inv (eol 0 1) := by
  constructor <;> (try unfold Exposing) <;> decide

theorem witness_SeqEolTickCounts :
    ∃ s, Inv s ∧ s.inp.rst = false ∧ s.seq.pix = 128 ∧ s.seq.tauCnt + 1 < s.inp.tau :=
  ⟨eol 0 2, inv_eol_first, by decide⟩

theorem witness_SeqEolExitReturnsToZero :
    (∃ s, Inv s ∧ s.inp.rst = false ∧ s.seq.pix = 128 ∧ s.inp.tau ≠ 0 ∧ s.inp.tau ≤ s.seq.tauCnt + 1 ∧ s.inp.tau = 1) ∧
    ∃ s, Inv s ∧ s.inp.rst = false ∧ s.seq.pix = 128 ∧ s.inp.tau ≠ 0 ∧ s.inp.tau ≤ s.seq.tauCnt + 1 ∧
      s.inp.tau = 65535 :=
  ⟨⟨eol 0 1, inv_eol_only, by decide⟩, ⟨eol 65534 65535, inv_eol_top, by decide⟩⟩

theorem witness_ZeroTauAtEndOfLineIsRefused : ∃ s, Ready s ∧ s.seq.pix = 128 ∧ s.inp.tau = 0 := by
  unfold Ready
  exact ⟨eol 7 0, by decide⟩

theorem witness_BufWriteStoresOneWord :
    (∃ s, Ready s ∧ s.adc.valid = true ∧ (Exposing s ∨ (s.cfg.eolWrite = true ∧ s.seq.pix = 128)) ∧
      Memory.wf s.mem = true ∧ s.seq.pix = 1) ∧
    ∃ s, Ready s ∧ s.adc.valid = true ∧ (Exposing s ∨ (s.cfg.eolWrite = true ∧ s.seq.pix = 128)) ∧
      Memory.wf s.mem = true ∧ s.seq.pix = 128 := by
  unfold Ready Exposing
  exact ⟨⟨scan Config.default .done 16 true 1, by decide⟩, ⟨eolE, by decide⟩⟩

theorem witness_BufIdleWriteAndReadsChangeNothing :
    (∃ s, Ready s ∧ wrEn s = false ∧ s.dmp.byteIdx = 0) ∧ ∃ s, Ready s ∧ wrEn s = false ∧ s.dmp.byteIdx = 1 := by
  unfold Ready
  exact ⟨⟨State.reset, by decide⟩, ⟨dump .send 127 1 false, by decide⟩⟩

theorem witness_WritePortDrive :
    (∃ s, legal s = true ∧ s.seq.pix = 0) ∧ (∃ s, legal s = true ∧ s.cfg.eolWrite = false ∧ wrEn s = true) ∧
    ∃ s, legal s = true ∧ s.cfg.eolWrite = true ∧ wrEn s = true ∧ wrAddr s = 127 :=
  ⟨⟨State.reset, by decide⟩, ⟨scan Config.default .done 16 true 127, by decide⟩, ⟨eolE, by decide⟩⟩

theorem witness_WordReadsBackAsWritten : ∃ m : Memory, Memory.wf m = true ∧ m ≠ [] :=
  ⟨(dump .idle 0 0 false).mem, by decide⟩

theorem witness_DmpIdleHoldsEverything : ∃ s, Ready s ∧ s.dmp.state = .idle ∧ s.inp.dumpTrigger = false := by
  unfold Ready
  exact ⟨dump .idle 0 0 true, by decide⟩

theorem witness_DmpTriggerStartsADump : ∃ s, Ready s ∧ s.dmp.state = .idle ∧ s.inp.dumpTrigger = true := by
  unfold Ready
  exact ⟨withInp (fun i => { i with dumpTrigger := true }) (dump .idle 0 0 true), by decide⟩

theorem witness_DmpSyncLoadsTheSyncByte : ∃ s, Ready s ∧ s.dmp.state = .sync := by
  unfold Ready
  exact ⟨dump .sync 0 0 false, by decide⟩

theorem witness_DmpSendHiLoadsTheHighByte : ∃ s, Ready s ∧ s.dmp.state = .send ∧ s.dmp.byteIdx = 0 := by
  unfold Ready
  exact ⟨dump .send 127 0 false, by decide⟩

theorem witness_DmpSendLoLoadsTheLowByte :
    ∃ s, Ready s ∧ s.dmp.state = .send ∧ s.dmp.byteIdx = 1 ∧ s.dmp.wordIdx ≠ 127 := by
  unfold Ready
  exact ⟨dump .send 126 1 false, by decide⟩

theorem witness_DmpSendLastSetsTheLatch :
    ∃ s, Ready s ∧ s.dmp.state = .send ∧ s.dmp.byteIdx = 1 ∧ s.dmp.wordIdx = 127 := by
  unfold Ready
  exact ⟨dump .send 127 1 false, by decide⟩

theorem witness_DmpWaitHoldOffersTheSameByte : ∃ s, Ready s ∧ s.dmp.state = .wait ∧ s.inp.sinkReady = false := by
  unfold Ready
  exact ⟨dump .wait 0 0 true, by decide⟩

theorem witness_DmpAcceptTransfersTheByte :
    (∃ s, Ready s ∧ s.dmp.state = .wait ∧ s.inp.sinkReady = true ∧ s.dmp.lastByteSent = false) ∧
    ∃ s, Ready s ∧ s.dmp.state = .wait ∧ s.inp.sinkReady = true ∧ s.dmp.lastByteSent = true := by
  unfold Ready
  exact ⟨⟨withInp (fun i => { i with sinkReady := true }) (dump .wait 0 0 false), by decide⟩,
    ⟨withInp (fun i => { i with sinkReady := true }) (dump .wait 0 0 true), by decide⟩⟩

theorem witness_DmpDonePulsesOnce : ∃ s, Ready s ∧ s.dmp.state = .done := by
  unfold Ready
  exact ⟨dump .done 0 0 true, by decide⟩

theorem witness_WireAdcFrameYieldsItsDataBits :
    (∃ s, Ready s ∧ s.adc.state = .converting ∧ s.adc.phase = 15 ∧ s.cfg.adcVariant = .b) ∧
    (∃ s, Ready s ∧ s.adc.state = .converting ∧ s.adc.phase = 15 ∧ s.cfg.adcVariant = .a ∧ Exposing s) ∧
    ∃ s, Ready s ∧ s.adc.state = .converting ∧ s.adc.phase = 15 ∧ s.cfg.adcVariant = .a ∧ ¬ Exposing s := by
  unfold Ready Exposing
  exact ⟨⟨scan Config.default .converting 15 false 1, by decide⟩, ⟨scan cfgA .converting 15 false 1, by decide⟩,
    ⟨scan cfgA .converting 15 false 128, by decide⟩⟩

theorem witness_WireDumpBytesAreLoadedByPosition :
    (∃ s, Ready s ∧ s.dmp.state = .sync) ∧ (∃ s, Ready s ∧ s.dmp.state = .send ∧ s.dmp.byteIdx = 0) ∧
    (∃ s, Ready s ∧ s.dmp.state = .send ∧ s.dmp.byteIdx = 1 ∧ s.dmp.wordIdx ≠ 127) ∧
    ∃ s, Ready s ∧ s.dmp.state = .send ∧ s.dmp.byteIdx = 1 ∧ s.dmp.wordIdx = 127 := by
  unfold Ready
  exact ⟨⟨dump .sync 0 0 false, by decide⟩, ⟨dump .send 0 0 false, by decide⟩, ⟨dump .send 0 1 false, by decide⟩,
    ⟨dump .send 127 1 false, by decide⟩⟩

theorem witness_StepRunsTheSelectedOperations :
    ∃ s sa sq sw sr sd : State, Ready s ∧ CfgTau s ∧
      decode s.cfg .asel ((aselWord s).setWidth 16) = .ok .adcHold ∧
      decode s.cfg .qsel ((qselWord s).setWidth 16) = .ok .seqIdle ∧
      decode s.cfg .wsel ((wselWord s).setWidth 16) = .ok .bufNowrite ∧
      decode s.cfg .rsel ((rselWord s).setWidth 16) = .ok .bufReadHi ∧
      decode s.cfg .dsel ((dselWord s).setWidth 16) = .ok .dmpIdle ∧
      exec .adcHold s = .next sa ∧ exec .seqIdle s = .next sq ∧ exec .bufNowrite s = .next sw ∧
      exec .bufReadHi s = .next sr ∧ exec .dmpIdle s = .next sd := by
  unfold Ready CfgTau
  exact ⟨State.reset, State.reset, State.reset, State.reset, State.reset, State.reset, by decide, by decide, rfl, rfl, rfl,
    rfl, rfl, rfl, rfl, rfl, rfl, rfl⟩

theorem witness_ResetCycle :
    ∃ s : State, s.inp.rst = true ∧ legal s = false ∧ s.dmp.state = .wait :=
  ⟨withInp (fun i => { i with rst := true }) { dump .wait 0 0 true with seq := { State.reset.seq with pix := 200 } },
    by decide⟩

theorem witness_FirstCycleAfterReset :
    ∃ s : State, s.inp.rst = true ∧ s.stim = [{ Inputs.quiet with scanTrigger := true, dumpTrigger := true }] :=
  ⟨withInp (fun i => { i with rst := true })
    { State.reset with stim := [{ Inputs.quiet with scanTrigger := true, dumpTrigger := true }] }, by decide⟩

/-- A state of every engine at work that keeps the invariant, the word under the read port being written. -/
def busy : State :=
  { dump .send 0 1 false with
    adc := { state := .done, phase := 16, sr := 0x9AB, sample := 0x9AB, valid := true }
    seq := { pix := 1, tauCnt := 0, trigLatch := false } }

theorem inv_busy : Inv busy := by
  constructor <;> (try unfold Exposing) <;> decide

theorem witness_EveryStepKeepsTheInvariant : ∃ s t : State, Inv s ∧ step s = .next t ∧ t.seq.pix = 2 :=
  ⟨busy, _, inv_busy, rfl, by decide⟩

theorem witness_CoreNeverHaltsWhileTauIsLegal :
    (∃ s : State, Inv s ∧ s.inp.rst = false ∧ CfgTau s ∧ s.seq.pix = 128 ∧ s.inp.tau = 1) ∧
    ∃ s : State, Inv s ∧ CfgTau s ∧ s.seq.pix = 1 := by
  unfold CfgTau
  exact ⟨⟨eol 0 1, inv_eol_only, by decide⟩, ⟨busy, inv_busy, by decide⟩⟩

theorem witness_IllegalStateHasNoNextState :
    (∃ s : State, s.inp.rst = false ∧ s.seq.pix.toNat = 129) ∧
    (∃ s : State, s.inp.rst = false ∧ s.adc.state = .done ∧ s.cfg.adcVariant = .a) ∧
    (∃ s : State, s.inp.rst = false ∧ s.adc.phase.toNat = 17) ∧
    (∃ s : State, s.inp.rst = false ∧ s.adc.state = .idle ∧ s.adc.phase = 1) ∧
    (∃ s : State, s.inp.rst = false ∧ s.adc.state = .converting ∧ s.adc.phase.toNat = 16) ∧
    ∃ s : State, s.inp.rst = false ∧ s.adc.state = .done ∧ s.adc.phase = 15 :=
  ⟨⟨scan Config.default .idle 0 false 129, by decide⟩, ⟨scan cfgA .done 16 false 0, by decide⟩,
    ⟨scan Config.default .idle 17 false 0, by decide⟩, ⟨scan Config.default .idle 1 false 0, by decide⟩,
    ⟨scan Config.default .converting 16 false 0, by decide⟩, ⟨scan Config.default .done 15 true 0, by decide⟩⟩

theorem witness_StepRefinesTheTransitionTables :
    (∃ s : State, Inv s ∧ s.inp.rst = false ∧ CfgTau s ∧ s.adc.state = .done) ∧
    ∃ s : State, Inv s ∧ s.inp.rst = false ∧ CfgTau s ∧ s.seq.pix = 128 := by
  unfold CfgTau
  exact ⟨⟨busy, inv_busy, by decide⟩, ⟨eol 65534 65535, inv_eol_top, by decide⟩⟩

theorem witness_OperationsWriteOnlyWhatTheirEngineOwns :
    (∃ s t : State, exec .bufWrite s = .next t ∧ Memory.wf s.mem = true) ∧
    ∃ s t : State, exec (.wireDumpLo 0x37) s = .next t ∧ Memory.wf s.mem = true :=
  ⟨⟨busy, _, rfl, by decide⟩, ⟨dump .send 127 1 false, _, rfl, by decide⟩⟩

theorem witness_DecodeOfEncodeIsTheRow :
    (wellFormed cfgA .adcCaptureStop = true ∧ Instr.fitsFormat .adcCaptureStop .asel = true) ∧
    (wellFormed cfgA (.wireDumpLo 0) = true ∧ Instr.fitsFormat (.wireDumpLo 0) (.dumpByte 256) = true) ∧
    Instr.fitsFormat (.wireDumpHi 15) (.dumpByte 255) = true := by decide

theorem witness_SelectorWordMatchesItsRowOnly :
    ((0xFF : Word).toNat < 2 ^ formatWidth .dsel) ∧ ((0x6F : Word).toNat < 2 ^ formatWidth .dsel) ∧
    ((1 : Word).toNat < 2 ^ formatWidth .rsel) := by decide

theorem witness_ReceiverRebuildsTheLine : ∃ line : List Sample, line.length = Config.nPix :=
  ⟨List.replicate 128 0x042, List.length_replicate⟩

theorem witness_OutputsDependOnRegistersOnly :
    ∃ s t : State, s.adc = t.adc ∧ s.seq = t.seq ∧ s.dmp = t.dmp ∧ s.cfg = t.cfg ∧ s.inp ≠ t.inp ∧ s.mem ≠ t.mem :=
  ⟨busy, { busy with inp := { busy.inp with sdata := true, sinkReady := true }, mem := [] }, by decide⟩

theorem witness_TriggersAreIgnoredWhileBusy :
    ∃ s t u : State, s.inp.rst = false ∧ s.seq.pix ≠ 0 ∧ s.dmp.state ≠ .idle ∧ step s = .next t ∧
      step { s with inp := { s.inp with scanTrigger := true } } = .next u :=
  ⟨busy, _, _, rfl, by decide, by decide, rfl, rfl⟩

theorem witness_TauIsReadOnlyAtEndOfLine :
    ∃ s t : State, s.inp.rst = false ∧ s.seq.pix = 127 ∧ step s = .next t :=
  ⟨scan Config.default .done 16 true 127, _, rfl, rfl, rfl⟩

theorem witness_DumpNeverDisturbsAScan :
    ∃ s s' t t' : State, s.inp.rst = false ∧ s'.inp.rst = false ∧ s.adc = s'.adc ∧ s.seq = s'.seq ∧ s.mem = s'.mem ∧
      s.cfg = s'.cfg ∧ s.inp.scanTrigger = s'.inp.scanTrigger ∧ s.inp.tau = s'.inp.tau ∧ s.inp.sdata = s'.inp.sdata ∧
      step s = .next t ∧ step s' = .next t' ∧ s.dmp ≠ s'.dmp :=
  ⟨busy, { busy with dmp := State.reset.dmp }, _, _, rfl, rfl, rfl, rfl, rfl, rfl, rfl, rfl, rfl, rfl, rfl, by decide⟩

theorem witness_OfferedByteIsHeldUntilTransferred :
    (∃ s : State, transfer s ≠ none) ∧
    ∃ s t : State, s.inp.rst = false ∧ step s = .next t ∧ (outputs s).sinkValid = true ∧ s.inp.sinkReady = false :=
  ⟨⟨withInp (fun i => { i with sinkReady := true }) (dump .wait 0 0 true), by decide⟩,
    ⟨dump .wait 0 0 true, _, rfl, rfl, rfl, rfl⟩⟩

theorem witness_ReadInTheWriteCycleSeesTheOldWord :
    ∃ s : State, Inv s ∧ s.inp.rst = false ∧ CfgTau s ∧ wrEn s = true ∧ wrAddr s = rdAddr s ∧ s.dmp.state = .send := by
  unfold CfgTau
  exact ⟨busy, inv_busy, by decide⟩

theorem inv_reset : Inv State.reset := by
  constructor <;> (try unfold Exposing) <;> decide

theorem witness_QuiescentCoreOnlyShifts :
    ∃ s : State, Inv s ∧ quiescent s = true ∧ s.inp.rst = false ∧ s.inp.scanTrigger = false ∧ s.inp.dumpTrigger = false :=
  ⟨State.reset, inv_reset, by decide⟩

theorem witness_PulsesNameTheirCycle :
    (∃ s t : State, s.inp.rst = false ∧ step s = .next t ∧ t.adc.valid = true) ∧
    (∃ s t : State, s.inp.rst = false ∧ step s = .next t ∧ s.adc.valid = true) ∧
    (∃ s t : State, s.inp.rst = false ∧ step s = .next t ∧ t.seq.trigLatch = true) ∧
    ∃ s t : State, s.inp.rst = false ∧ step s = .next t ∧ s.seq.trigLatch = true :=
  ⟨⟨scan cfgA .converting 15 false 1, _, rfl, rfl, by decide⟩, ⟨busy, _, rfl, rfl, rfl⟩,
    ⟨withInp (fun i => { i with scanTrigger := true }) State.reset, _, rfl, rfl, by decide⟩,
    ⟨latched (scan Config.default .idle 0 false 1), _, rfl, rfl, rfl⟩⟩

theorem inv_last_pixel : Inv (scan Config.default .done 16 true 127) := by
  constructor <;> (try unfold Exposing) <;> decide

theorem witness_StragglerStartsAtTheLastPixel :
    ∃ s : State, Inv s ∧ s.inp.rst = false ∧ s.cfg.adcVariant = .b ∧ s.seq.pix = 127 ∧ s.adc.valid = true :=
  ⟨scan Config.default .done 16 true 127, inv_last_pixel, by decide⟩

def convStart (c : Config) : State :=
  { scan c .idle 0 false 127 with stim := List.replicate 16 { Inputs.quiet with sdata := true } }

theorem inv_convStart : Inv (convStart Config.default) ∧ Inv (convStart cfgA) := by
  constructor <;> constructor <;> (try unfold Exposing) <;> decide

theorem witness_ConversionDeliversTheTwelveDataBits :
    (∃ s : State, Inv s ∧ s.adc.state = .idle ∧ s.adc.valid = false ∧ Exposing s ∧ s.inp.rst = false ∧
      16 ≤ s.stim.length ∧ (∀ i ∈ s.stim, i.rst = false) ∧ s.cfg.adcVariant = .b) ∧
    ∃ s : State, Inv s ∧ s.adc.state = .idle ∧ s.adc.valid = false ∧ Exposing s ∧ s.inp.rst = false ∧
      16 ≤ s.stim.length ∧ (∀ i ∈ s.stim, i.rst = false) ∧ s.cfg.adcVariant = .a := by
  unfold Exposing
  exact ⟨⟨convStart Config.default, inv_convStart.1, by decide⟩, ⟨convStart cfgA, inv_convStart.2, by decide⟩⟩

def eolStart (tau : Nat) : State := { eol 0 tau with stim := List.replicate tau { Inputs.quiet with tau := tau } }

theorem inv_eolStart : Inv (eolStart 5) ∧ Inv (eolStart 1) := by
  constructor <;> constructor <;> (try unfold Exposing) <;> decide

theorem witness_EndOfLineLastsExactlyTauCycles :
    (∃ s : State, Inv s ∧ s.seq.pix = 128 ∧ s.seq.tauCnt = 0 ∧ s.inp.tau ≠ 0 ∧ s.inp.rst = false ∧
      s.inp.tau ≤ s.stim.length ∧ (∀ i ∈ s.stim, i.rst = false ∧ i.tau = s.inp.tau) ∧ s.inp.tau = 5) ∧
    ∃ s : State, Inv s ∧ s.seq.pix = 128 ∧ s.seq.tauCnt = 0 ∧ s.inp.tau ≠ 0 ∧ s.inp.rst = false ∧
      s.inp.tau ≤ s.stim.length ∧ (∀ i ∈ s.stim, i.rst = false ∧ i.tau = s.inp.tau) ∧ s.inp.tau = 1 :=
  ⟨⟨eolStart 5, inv_eolStart.1, by decide⟩, ⟨eolStart 1, inv_eolStart.2, by decide⟩⟩

def dumpInp : Inputs := { Inputs.quiet with dumpTrigger := true, sinkReady := true }
def dumpStart : State := { dump .idle 0 0 false with inp := dumpInp, stim := List.replicate 516 dumpInp }

theorem inv_dumpStart : Inv dumpStart := by
  constructor <;> (try unfold Exposing) <;> decide

theorem witness_DumpSendsTheWholeFrame :
    ∃ s : State, Inv s ∧ s.dmp.state = .idle ∧ s.seq.pix = 0 ∧ s.inp.rst = false ∧ s.inp.scanTrigger = false ∧
      s.inp.dumpTrigger = true ∧ s.inp.sinkReady = true ∧ 516 ≤ s.stim.length ∧
      ∀ i ∈ s.stim, i.rst = false ∧ i.scanTrigger = false ∧ i.sinkReady = true := by
  refine ⟨dumpStart, inv_dumpStart, rfl, rfl, rfl, rfl, rfl, rfl, ?_, ?_⟩
  · show 516 ≤ (List.replicate 516 dumpInp).length
    rw [List.length_replicate]
  · intro i hi
    rw [List.eq_of_mem_replicate hi]
    decide

def deadStart : State := { dump .wait 5 1 false with stim := List.replicate 3 Inputs.quiet }

theorem inv_deadStart : Inv deadStart := by
  constructor <;> (try unfold Exposing) <;> decide

theorem witness_DeadSinkHoldsTheDumperForever :
    ∃ (s : State) (k : Nat), Inv s ∧ s.dmp.state = .wait ∧ s.inp.sinkReady = false ∧ s.inp.rst = false ∧ s.inp.tau ≠ 0 ∧
      k ≤ s.stim.length ∧ k = 3 ∧ ∀ i ∈ s.stim, i.rst = false ∧ i.sinkReady = false ∧ fitTau s.cfg i.tau ≠ 0 :=
  ⟨deadStart, 3, inv_deadStart, by decide⟩

theorem witness_EveryReachableSelectorHasARow :
    (∃ s : State, legal s = true ∧ s.seq.pix = 128) ∧ ∃ s : State, legal s = true ∧ s.adc.state = .done :=
  ⟨⟨eol 7 0, by decide⟩, ⟨busy, by decide⟩⟩

def readyInp : Inputs := { Inputs.quiet with sinkReady := true }

/-- The core at rest in cycle `c`, the sink ready. -/
def resting (c : Nat) : State := { State.reset with dmp := (dump .idle 0 0 true).dmp, inp := readyInp, cycle := c }

/-- At rest the core goes on resting, in whatever cycle. -/
theorem resting_step (c : Nat) : step { resting c with stim := [readyInp] } = .next (resting (c + 1)) := by
  have hf : fetch { resting c with stim := [readyInp] } = .ok ⟨.adcHold, .seqIdle, .bufNowrite, .bufReadHi, .dmpIdle⟩ := by
    rw [fetch_ok_iff]
    simp [resting, dump, readyInp, select_asel, select_qsel, select_wsel, select_rsel, select_dsel, legal, adcLegal,
      seqLegal, dmpLegal, State.reset, tauRefused, convert, Inputs.quiet, wrEn]
  obtain ⟨hl, ha, hq, hw, hr, hd⟩ := (fetch_ok_iff _ _).1 hf
  refine (step_next_iff _ _).2 (.inr ⟨rfl, _, hf, _, _, _, _, _, perform_of_selected _ rfl hl ha,
    perform_of_selected _ rfl hl hq, perform_of_selected (fun s => s) rfl hl hw, perform_of_selected (fun s => s) rfl hl hr,
    perform_of_selected (fun s => s) rfl hl hd, ?_⟩)
  simp [mergeEngines, tick, resting, State.reset, srNext, shiftIn, onPins, fitTau, readyInp, Inputs.quiet, Config.default]

/-- The last byte of a frame is taken, `done` pulses, and the core stays idle with the sink ready for ever. -/
def endingRun : Nat → State
  | 0 => { resting 0 with dmp := (dump .wait 0 0 true).dmp }
  | 1 => { resting 1 with dmp := (dump .done 0 0 true).dmp }
  | n + 2 => resting (n + 2)

theorem inv_endingRun : Inv (endingRun 0) := by
  constructor <;> (try unfold Exposing) <;> decide

theorem witness_EveryDumpEndsWhereTheSinkIsLive :
    ∃ r : Nat → State, DrivenRun r ∧ Inv (r 0) ∧ (∀ t, (r t).inp.rst = false) ∧ SinkLive r ∧ (r 0).dmp.state ≠ .idle := by
  have ready : ∀ t, (endingRun t).inp = readyInp
    | 0 => rfl
    | 1 => rfl
    | _ + 2 => rfl
  have driven : DrivenRun endingRun
    | 0 => ⟨readyInp, rfl⟩
    | 1 => ⟨readyInp, rfl⟩
    | n + 2 => ⟨readyInp, resting_step (n + 2)⟩
  exact ⟨endingRun, driven, inv_endingRun, fun t => by rw [ready]; rfl,
    fun t _ => ⟨t + 1, Nat.lt_succ_self t, by rw [ready]; rfl⟩, by decide⟩

def resetInp : Inputs := { Inputs.quiet with rst := true }

/-- A trigger in the first cycle, and reset held from the second on. -/
def cutRun : Nat → State
  | 0 => withInp (fun i => { i with scanTrigger := true }) State.reset
  | 1 => { State.reset with seq := { pix := 1, tauCnt := 0, trigLatch := true }, inp := resetInp, cycle := 1 }
  | n + 2 => { State.reset with
      adc := { State.reset.adc with sr := Config.anySr (n + 1), sample := Config.anySample (n + 1) }
      dmp := { State.reset.dmp with txData := Config.anyTxData (n + 1) }
      inp := resetInp
      cycle := n + 2 }

theorem inv_cutRun : Inv (cutRun 0) := by
  constructor <;> (try unfold Exposing) <;> decide

theorem witness_NoStragglerLeaksUnderTauMin :
    ∃ (r : Nat → State) (t : Nat), DrivenRun r ∧ Inv (r 0) ∧ quiescent (r 0) = true ∧ TauMin r ∧ (r t).inp.rst = false ∧
      (r t).seq.pix = 0 ∧ (r t).inp.scanTrigger = true := by
  have driven : DrivenRun cutRun
    | 0 => ⟨resetInp, rfl⟩
    | 1 => ⟨resetInp, rfl⟩
    | _ + 2 => ⟨resetInp, rfl⟩
  have noEol : ∀ t, (cutRun t).seq.pix ≠ 128
    | 0 => by decide
    | 1 => by decide
    | n + 2 => by show (0 : BitVec 8) ≠ 128; decide
  exact ⟨cutRun, 0, driven, inv_cutRun, by decide,
    fun a b hab h _ => absurd (h a (Nat.le_refl a) hab) (noEol a), rfl, rfl, rfl⟩

/-- The cycle of the last write of a scan, with a dump trigger. -/
def lastWrite : State :=
  { State.reset with
    adc := { State.reset.adc with state := .done, phase := 16, valid := true }
    seq := { State.reset.seq with pix := 127 }
    inp := { Inputs.quiet with dumpTrigger := true } }

/-- R180 (a) at its boundary: a dump may be triggered in the cycle of the scan's last write, and not in the one before, nor
with `EOL_WRITE`, where one more write comes. -/
theorem test_trigDiscipline_boundary :
    TrigDiscipline lastWrite ∧
    ¬ TrigDiscipline (lastWrite.setAdc { lastWrite.adc with state := .converting, phase := 15, valid := false }) ∧
    ¬ TrigDiscipline { lastWrite with cfg := { lastWrite.cfg with eolWrite := true } } := by
  unfold TrigDiscipline DumpTriggered ScanTriggered ScanWritten
  refine ⟨?_, ?_, ?_⟩ <;> decide

/-! ## Traces (R75, R76) -/

/-- What a trace ends with, by its stop or by some names. -/
def traceStop (ls : List TraceLine) : Option TraceStop :=
  match runTrace ls with
  | .ok _ => none
  | .error e => some e

/-- R75: a cfg or start line stands before the first tick, and `tick n` has `n >= 1`. -/
theorem test_trace_bad_lines :
    traceStop [.tick 1, .cfg (.eolWrite true)] = some .badLine ∧ traceStop [.tick 1, .start (.pix 1)] = some .badLine ∧
    traceStop [.tick 0] = some .badLine ∧ traceStop [.set .rst 2] = some .badLine := by decide

/-- R75: a cfg line and the start state hold for the whole trace, wherever before the first tick their lines stand. -/
theorem test_trace_whole :
    traceStop [.expect (.value .tauCnt (some 70000)), .start (.tauCnt 70000), .set .tau 70001, .expect (.value .tau (some 70001)),
      .cfg (.tauW 17)] = none ∧
    traceStop [.start (.tauCnt 70000)] = some .badLine ∧ traceStop [.set .tau 65536] = some .badLine ∧
    traceStop [.cfg (.tauW 17), .cfg (.tauW 16)] = some .badLine := by decide

/-- R75: `any` values are shown as `??`, and a value given by a start line is not. -/
theorem test_trace_poison :
    traceStop [.start (.mem 3 0x123), .start (.txData 0x42), .expect (.value (.mem 3) (some 0x123)),
      .expect (.value (.mem 127) none), .expect (.value .sample none), .expect (.value .sinkData (some 0x42)),
      .expect (.value .rdData none), .expect (.value .tau (some 128))] = none ∧
    traceStop [.expect (.value .sample (some 0))] = some (.expectFailed 0) := by decide

/-- V-RST-3 and R170: a reset edge poisons `tx_data` again and leaves the words. -/
theorem test_trace_reset :
    traceStop ([.start (.txData 0x42), .start (.mem 0 0x111)] ++ resetLine ++
      [.expect (.value .txData none), .expect (.value (.mem 0) (some 0x111))]) = none := by decide

/-- R76: `run until` reports its ticks; here SEQ.TRIGGER's pulse takes one. -/
theorem test_trace_run_until :
    (match runTrace [.set .scanTrigger 1, .runUntil 3 (fun v => v .pix == some 1)] with
      | .ok b => b.reports
      | .error _ => []) = [1] ∧
    traceStop [.runUntil 2 (fun v => v .pix == some 1)] = some .outOfFuel := by decide

end Sys2Proof.Tests
end

section
/-! The scope of the core (00_scope.md): one step is one cycle of the four engines (R2, R72, R158), reset overrides every
operation (R5, R170), and the output ports are Moore outputs (R3). -/

namespace Sys2Proof.Machine

/-! ## From the selector words to the step -/

/-- The selection refuses U1 exactly where CFG-TAU fails. -/
theorem tauRefused_eq_false_iff (s : State) : tauRefused s = false ↔ CfgTau s := by
  simp [tauRefused, CfgTau]

/-- An engine performs the operation its selector word decodes to (R72), the refused configuration aside (U1). -/
theorem select_of_decode {s : State} {f : Format} {w : Word} {i : Instr} (ht : f = .qsel → CfgTau s)
    (hw : selectorWord s f = some w) (hd : decode s.cfg f w = .ok i) : select s f = .ok i := by
  have hu : ¬ (f = .qsel ∧ tauRefused s = true) := by
    rintro ⟨hf, hr⟩
    rw [(tauRefused_eq_false_iff s).2 (ht hf)] at hr
    exact absurd hr (by decide)
  simp only [select, if_neg hu, hw, hd]

/-- A cycle fetches the five operations its selector words decode to. -/
theorem fetch_of_decode {s : State} {ops : CycleOps} (hl : legal s = true) (ht : CfgTau s)
    (ha : decode s.cfg .asel ((aselWord s).setWidth 16) = .ok ops.adc)
    (hq : decode s.cfg .qsel ((qselWord s).setWidth 16) = .ok ops.seq)
    (hw : decode s.cfg .wsel ((wselWord s).setWidth 16) = .ok ops.wr)
    (hr : decode s.cfg .rsel ((rselWord s).setWidth 16) = .ok ops.rd)
    (hd : decode s.cfg .dsel ((dselWord s).setWidth 16) = .ok ops.dmp) : fetch s = .ok ops :=
  have noTau {f : Format} : f = .qsel → CfgTau s := fun _ => ht
  (fetch_ok_iff s ops).2 ⟨hl, select_of_decode noTau rfl ha, select_of_decode noTau rfl hq,
    select_of_decode noTau rfl hw, select_of_decode noTau rfl hr, select_of_decode noTau rfl hd⟩

/-- Settles O31: the five decoded operations are the ones fetched, and the step joins their next states by owner. -/
theorem stepRunsTheSelectedOperations : Obligations.StepRunsTheSelectedOperations := by
  intro s sa sq sw sr sd a q w r d ⟨hrst, hl⟩ ht ha hq hw hr hd ea eq ew er ed
  have hf : fetch s = .ok ⟨a, q, w, r, d⟩ := fetch_of_decode hl ht ha hq hw hr hd
  exact (step_next_iff s _).2 (.inr ⟨hrst, _, hf, sa, sq, sw, sr, sd, ea, eq, ew, er, ed, rfl⟩)

/-! ## Reset -/

/-- A reset cycle steps from every state, by the reset edge alone (R5, R170). -/
theorem step_of_reset {s : State} (hr : s.inp.rst = true) : step s = .next (tick (resetEdge s)) :=
  (step_next_iff s _).2 (.inl ⟨hr, rfl⟩)

/-- Settles O32: the step of a reset cycle is the reset edge, whatever the state; the passing clock touches no register. -/
theorem resetCycleOverridesEveryOperation : Obligations.ResetCycleOverridesEveryOperation := by
  intro s hr
  exact ⟨_, step_of_reset hr, by simp⟩

/-! ## The output ports -/

/-- R31: each output port, written out as a function of the registers and the parameters. -/
theorem outputs_eq (s : State) : outputs s =
    { csN := decide (s.adc.state ≠ .converting), adcSample := s.adc.sample, adcValid := s.adc.valid,
      sensorStart := s.cfg.hasStartPulse && s.seq.trigLatch, sensorClk := s.adc.valid,
      sinkData := s.dmp.txData, sinkValid := decide (s.dmp.state = .wait),
      done := decide (s.dmp.state = .done) } := by
  simp [outputs, csN, sensorStart, sensorClk, sinkValid, donePulse, bne, beq_eq_decide]

/-- Settles O46: the functions of R31 read neither an input port nor the LineBuffer. -/
theorem outputsDependOnRegistersOnly : Obligations.OutputsDependOnRegistersOnly := by
  intro s t hadc hseq hdmp hcfg
  refine ⟨?_, outputs_eq s⟩
  rw [outputs_eq s, outputs_eq t, hadc, hseq, hdmp, hcfg]

end Sys2Proof.Machine
end

section
/-! The state of the core (10_state.md): the reset state (R33), the step as one step of the transition tables
(R206 to R208, R108), and the invariant (R32), engine by engine (R158). -/

namespace Sys2Proof.Machine

/-! ## The quiescent core (R165, R33) -/

theorem quiescent_iff (s : State) : quiescent s = true ↔
    s.adc.state = .idle ∧ s.adc.valid = false ∧ s.seq.pix = 0 ∧ s.seq.trigLatch = false ∧ s.dmp.state = .idle := by
  simp [quiescent, and_assoc]

/-- A quiescent core shows the outputs of R33, and neither converts nor writes. -/
theorem outputs_of_quiescent {s : State} (h : quiescent s = true) :
    (outputs s).csN = true ∧ (outputs s).adcValid = false ∧ (outputs s).sensorStart = false ∧
    (outputs s).sensorClk = false ∧ (outputs s).sinkValid = false ∧ (outputs s).done = false ∧
    convert s = false ∧ wrEn s = false := by
  obtain ⟨hadc, hvalid, hpix, hlatch, hdmp⟩ := (quiescent_iff s).1 h
  simp [outputs_eq, convert, wrEn, hadc, hvalid, hpix, hlatch, hdmp]

theorem quiescent_reset : quiescent State.reset = true := rfl

/-- Settles O34: the registers are the literals of the table, and the outputs those of a quiescent core. -/
theorem resetStateHasTheTableValues : Obligations.ResetStateHasTheTableValues := by
  obtain ⟨hcs, hvalid, hstart, hclk, hsink, hdone, hconv, hwr⟩ := outputs_of_quiescent quiescent_reset
  exact ⟨rfl, rfl, rfl, rfl, rfl, rfl, rfl, rfl, hcs, hvalid, hstart, hclk, hsink, hdone, hconv, hwr, quiescent_reset⟩

/-! ## What R32 says of each engine -/

/-- R32 is three conditions, one on the registers of each engine. -/
theorem legal_iff (s : State) : legal s = true ↔
    adcLegal s.cfg.adcVariant s.adc = true ∧ seqLegal s.seq = true ∧ dmpLegal s.dmp = true := by
  simp [legal, and_assoc]

theorem seqLegal_iff (q : SeqRegs) :
    seqLegal q = true ↔ q.pix.toNat ≤ 128 ∧ (q.trigLatch = true → q.pix = 1) := by
  cases h : q.trigLatch <;> simp [seqLegal, h]

theorem dmpLegal_iff (d : DmpRegs) :
    dmpLegal d = true ↔ (d.lastByteSent = true → d.wordIdx = 0 ∧ d.byteIdx = 0) := by
  cases h : d.lastByteSent <;> simp [dmpLegal, h]

theorem phase_le_of_converting {v : Variant} {a : AdcRegs} (hl : adcLegal v a = true) (hc : a.state = .converting) :
    a.phase.toNat ≤ 15 := by
  simp only [adcLegal, hc, Bool.and_eq_true, decide_eq_true_eq] at hl
  exact hl.1

theorem variant_of_done {v : Variant} {a : AdcRegs} (hl : adcLegal v a = true) (hd : a.state = .done) : v = .b := by
  simp only [adcLegal, hd, Bool.and_eq_true, beq_iff_eq] at hl
  exact hl.1.2

/-! ## The operations the engines select are those of the tables -/

/-- While CONVERTING, bit time 15 is the end of the table's range `phase < 15` (R206). -/
theorem p15_eq_of_converting {s : State} (hl : legal s = true) (hc : s.adc.state = .converting) :
    p15 s = !decide (s.adc.phase.toNat < 15) := by
  have hle := phase_le_of_converting ((legal_iff s).1 hl).1 hc
  have h15 : s.adc.phase = 15 ↔ s.adc.phase.toNat = 15 := by rw [← BitVec.toNat_inj]; rfl
  rw [p15, Bool.eq_iff_iff]
  simp only [beq_iff_eq, h15, Bool.not_eq_true', decide_eq_false_iff_not]
  omega

theorem select_asel_eq_table {s : State} (hl : legal s = true) :
    select s .asel = .ok (Tables.adcOp s.cfg.adcVariant (convert s) s.adc) := by
  rw [select_asel s hl]
  unfold Tables.adcOp
  cases hs : s.adc.state with
  | idle => cases convert s <;> rfl
  | converting =>
    rw [p15_eq_of_converting hl hs]
    by_cases hp : s.adc.phase.toNat < 15
    · simp [hp]
    · cases convert s <;> cases s.cfg.adcVariant <;> simp [hp]
  | done => cases convert s <;> rfl

theorem pix_eq_zero_iff (p : BitVec 8) : p = 0 ↔ p.toNat = 0 := by
  rw [← BitVec.toNat_inj]; rfl

theorem pix_eq_128_iff (p : BitVec 8) : p = 128 ↔ p.toNat = 128 := by
  rw [← BitVec.toNat_inj]; rfl

theorem select_qsel_eq_table {s : State} (hl : legal s = true) (ht : CfgTau s) :
    select s .qsel = .ok (Tables.seqOp s.inp.scanTrigger s.adc.valid s.inp.tau s.seq) := by
  obtain ⟨hpix, -⟩ := (seqLegal_iff _).1 ((legal_iff s).1 hl).2.1
  rw [select_qsel s hl ((tauRefused_eq_false_iff s).2 ht), Tables.seqOp]
  simp only [pix_eq_zero_iff, pix_eq_128_iff]
  by_cases h0 : s.seq.pix.toNat = 0
  · simp [h0]
  by_cases h127 : s.seq.pix.toNat ≤ 127
  · have h128 : s.seq.pix.toNat ≠ 128 := by omega
    simp only [h0, h127, h128, if_true, if_false]
  · have h128 : s.seq.pix.toNat = 128 := by omega
    by_cases hhit : s.seq.tauCnt + 1 < s.inp.tau
    · simp [h128, hhit, tauHit]
    · simp [h128, hhit, tauHit, Nat.le_of_not_lt hhit]

/-- R108, as the write port's condition in the tables. -/
theorem wrEn_iff (s : State) : wrEn s = true ↔
    s.adc.valid = true ∧
      ((1 ≤ s.seq.pix.toNat ∧ s.seq.pix.toNat ≤ 127) ∨ (s.cfg.eolWrite = true ∧ s.seq.pix = 128)) := by
  simp [wrEn, convert]

theorem select_wsel_eq_table (s : State) : select s .wsel = .ok (Tables.wrOp s.cfg.eolWrite s.adc s.seq) := by
  simp only [select_wsel, Tables.wrOp, wrEn_iff]

theorem select_dsel_eq_table (s : State) :
    select s .dsel = .ok (Tables.dmpOp s.inp.dumpTrigger s.inp.sinkReady s.dmp) := by
  rw [select_dsel]
  unfold Tables.dmpOp
  cases s.dmp.state <;> simp [w127]

/-- A cycle that the spec does not refuse fetches the operations of the tables. -/
theorem fetch_eq_coreOps {s : State} (hl : legal s = true) (ht : CfgTau s) : fetch s = .ok (Tables.coreOps s) :=
  (fetch_ok_iff s _).2 ⟨hl, select_asel_eq_table hl, select_qsel_eq_table hl ht, select_wsel_eq_table s,
    select_rsel s, select_dsel_eq_table s⟩

/-- A cycle that fetches is not the configuration U1. -/
theorem cfgTau_of_fetch {s : State} {ops : CycleOps} (h : fetch s = .ok ops) : CfgTau s := by
  obtain ⟨-, -, hq, -⟩ := (fetch_ok_iff s ops).1 h
  rw [← tauRefused_eq_false_iff, ← Bool.not_eq_true]
  intro hr
  rw [select_qsel_refused s hr] at hq
  cases hq

/-! ## The operations write what the tables say -/

/-- A selected operation answers its effect; `h` names its arm of `exec`. -/
theorem exec_of_selected {op : Instr} {s : State} {eff : State → State} (h : exec op s = perform op s eff)
    (hr : s.inp.rst = false) (hl : legal s = true) (hsel : select s op.format = .ok op) : exec op s = .next (eff s) :=
  h.trans (perform_of_selected eff hr hl hsel)

theorem exec_adcOp {s : State} (hr : s.inp.rst = false) (hl : legal s = true) :
    ∃ t, exec (Tables.adcOp s.cfg.adcVariant (convert s) s.adc) s = .next t ∧
      t.adc = Tables.adcNext s.cfg.adcVariant (convert s) s.inp.sdata s.adc := by
  have hsel := select_asel_eq_table hl
  unfold Tables.adcOp at hsel ⊢
  unfold Tables.adcNext
  cases hs : s.adc.state with
  | idle =>
    cases hc : convert s <;> simp only [hs, hc] at hsel ⊢ <;> exact ⟨_, exec_of_selected rfl hr hl hsel, rfl⟩
  | converting =>
    by_cases hp : s.adc.phase.toNat < 15
    · simp only [hs, hp, if_true] at hsel ⊢
      exact ⟨_, exec_of_selected rfl hr hl hsel, rfl⟩
    · cases hv : s.cfg.adcVariant <;> cases hc : convert s <;> simp only [hs, hp, hv, hc] at hsel ⊢ <;>
        exact ⟨_, exec_of_selected rfl hr hl hsel, rfl⟩
  | done =>
    cases hc : convert s <;> simp only [hs, hc] at hsel ⊢ <;> exact ⟨_, exec_of_selected rfl hr hl hsel, rfl⟩

/-- Where the increment of `tau_cnt` fits, the sequencer's operation writes what R207 says. -/
theorem exec_seqOp {s : State} (hr : s.inp.rst = false) (hl : legal s = true) (ht : CfgTau s)
    (hfit : s.seq.pix = 128 → s.seq.tauCnt + 1 < 2 ^ s.cfg.tauW) :
    ∃ t, exec (Tables.seqOp s.inp.scanTrigger s.adc.valid s.inp.tau s.seq) s = .next t ∧
      t.seq = Tables.seqNext s.inp.scanTrigger s.adc.valid s.inp.tau s.seq := by
  have hsel := select_qsel_eq_table hl ht
  unfold Tables.seqOp at hsel ⊢
  unfold Tables.seqNext
  by_cases h0 : s.seq.pix = 0
  · by_cases hscan : s.inp.scanTrigger = true
    · simp only [if_pos h0, if_pos hscan] at hsel ⊢
      exact ⟨_, exec_of_selected rfl hr hl hsel, rfl⟩
    · simp only [if_pos h0, if_neg hscan] at hsel ⊢
      exact ⟨_, exec_of_selected rfl hr hl hsel, rfl⟩
  by_cases h128 : s.seq.pix = 128
  · have hbump : tauBumped s = s.seq.tauCnt + 1 := Nat.mod_eq_of_lt (hfit h128)
    by_cases hhit : s.seq.tauCnt + 1 < s.inp.tau <;>
      simp only [if_neg h0, if_pos h128, hhit, if_true, if_false] at hsel ⊢ <;>
      exact ⟨_, exec_of_selected rfl hr hl hsel, by simp [hbump, h128]⟩
  · by_cases hv : s.adc.valid = true
    · simp only [if_neg h0, if_neg h128, if_pos hv] at hsel ⊢
      exact ⟨_, exec_of_selected
        (eff := fun s => (seqMove (s.seq.pix + 1) s.seq.tauCnt false s).setMem (memAfterWrite s)) rfl hr hl hsel, rfl⟩
    · simp only [if_neg h0, if_neg h128, if_neg hv] at hsel ⊢
      exact ⟨_, exec_of_selected rfl hr hl hsel, rfl⟩

/-- The word the write port addresses is `pix - 1` (R108, R202). -/
theorem wrAddr_eq {s : State} (h : 1 ≤ s.seq.pix.toNat) : wrAddr s = BitVec.ofNat 7 (s.seq.pix.toNat - 1) := by
  apply BitVec.eq_of_toNat_eq
  have hlt := s.seq.pix.isLt
  simp only [wrAddr, BitVec.toNat_setWidth, BitVec.toNat_sub, BitVec.ofNat_eq_ofNat, BitVec.toNat_ofNat]
  omega

theorem exec_wrOp {s : State} (hr : s.inp.rst = false) (hl : legal s = true) :
    ∃ t, exec (Tables.wrOp s.cfg.eolWrite s.adc s.seq) s = .next t ∧
      t.mem = Tables.memNext s.cfg.eolWrite s.adc s.seq s.mem := by
  have hsel := select_wsel_eq_table s
  simp only [Tables.wrOp, Tables.memNext, ← wrEn_iff] at hsel ⊢
  by_cases hw : wrEn s = true
  · have hpix : 1 ≤ s.seq.pix.toNat := by
      obtain ⟨-, ⟨hlo, -⟩ | ⟨-, h128⟩⟩ := (wrEn_iff s).1 hw
      · exact hlo
      · simp [h128]
    simp only [if_pos hw] at hsel ⊢
    exact ⟨_, exec_of_selected (eff := fun s => s.setMem (memAfterWrite s)) rfl hr hl hsel,
      by simp [memAfterWrite, wrAddr_eq hpix, wrData]⟩
  · simp only [if_neg hw] at hsel ⊢
    exact ⟨_, exec_of_selected (eff := fun s => s) rfl hr hl hsel, rfl⟩

theorem exec_rdOp {s : State} (hr : s.inp.rst = false) (hl : legal s = true) :
    ∃ t, exec (Tables.rdOp s.dmp) s = .next t := by
  have hsel : select s .rsel = .ok (Tables.rdOp s.dmp) := select_rsel s
  unfold Tables.rdOp at hsel ⊢
  by_cases hb : s.dmp.byteIdx = 0 <;> simp only [hb, if_true, if_false] at hsel ⊢ <;>
    exact ⟨_, exec_of_selected (eff := fun s => s) rfl hr hl hsel⟩

theorem exec_dmpOp {s : State} (hr : s.inp.rst = false) (hl : legal s = true) :
    ∃ t, exec (Tables.dmpOp s.inp.dumpTrigger s.inp.sinkReady s.dmp) s = .next t ∧
      t.dmp = Tables.dmpNext s.cfg.syncByte s.inp.dumpTrigger s.inp.sinkReady (readWord s.mem s.dmp.wordIdx) s.dmp := by
  have hsel := select_dsel_eq_table s
  unfold Tables.dmpOp at hsel ⊢
  unfold Tables.dmpNext
  cases hs : s.dmp.state with
  | idle =>
    by_cases hd : s.inp.dumpTrigger = true
    · simp only [hs, if_pos hd] at hsel ⊢
      exact ⟨_, exec_of_selected
        (eff := fun s => s.setDmp { s.dmp with state := .sync, wordIdx := 0, byteIdx := 0, lastByteSent := false })
        rfl hr hl hsel, rfl⟩
    · simp only [hs, if_neg hd] at hsel ⊢
      exact ⟨_, exec_of_selected (eff := fun s => s) rfl hr hl hsel, rfl⟩
  | sync | done =>
    simp only [hs] at hsel ⊢
    exact ⟨_, exec_of_selected rfl hr hl hsel, rfl⟩
  | send =>
    simp only [hs] at hsel ⊢
    by_cases hb : s.dmp.byteIdx = 0
    · simp only [hb, if_true] at hsel ⊢
      exact ⟨_, exec_of_selected rfl hr hl hsel, rfl⟩
    by_cases hw : s.dmp.wordIdx = 127
    · simp only [hb, hw, if_true, if_false] at hsel ⊢
      exact ⟨_, exec_of_selected rfl hr hl hsel, by simp [hw, rdData, rdAddr, loByte]⟩
    · simp only [hb, hw, if_false] at hsel ⊢
      exact ⟨_, exec_of_selected rfl hr hl hsel, rfl⟩
  | wait =>
    by_cases hready : s.inp.sinkReady = true
    · by_cases hlast : s.dmp.lastByteSent = true
      · simp only [hs, if_pos hready, if_pos hlast] at hsel ⊢
        exact ⟨_, exec_of_selected rfl hr hl hsel, rfl⟩
      · simp only [hs, if_pos hready, if_neg hlast] at hsel ⊢
        exact ⟨_, exec_of_selected rfl hr hl hsel, rfl⟩
    · simp only [hs, if_neg hready] at hsel ⊢
      exact ⟨_, exec_of_selected (eff := fun s => s) rfl hr hl hsel, rfl⟩

/-- One cycle with `rst = 0` is one step of the transition tables (R206 to R208, R108, R2). -/
theorem step_eq_coreNext {s : State} (hi : Inv s) (hr : s.inp.rst = false) (ht : CfgTau s) :
    step s = .next (Tables.coreNext s) := by
  obtain ⟨sa, ea, hadc⟩ := exec_adcOp hr hi.legal
  obtain ⟨sq, eq, hseq⟩ := exec_seqOp hr hi.legal ht hi.tauCnt_endOfLine
  obtain ⟨sw, ew, hmem⟩ := exec_wrOp hr hi.legal
  obtain ⟨sr, er⟩ := exec_rdOp hr hi.legal
  obtain ⟨sd, ed, hdmp⟩ := exec_dmpOp hr hi.legal
  refine (step_next_iff s _).2 (.inr ⟨hr, _, fetch_eq_coreOps hi.legal ht, sa, sq, sw, sr, sd, ea, eq, ew, er, ed, ?_⟩)
  rw [mergeEngines, hadc, hseq, hmem, hdmp]
  rfl

/-- What a step from the invariant can answer: the reset edge, or the next state of the tables. -/
theorem step_next_cases {s t : State} (hi : Inv s) (h : step s = .next t) :
    t = tick (resetEdge s) ∨ t = Tables.coreNext s := by
  obtain ⟨-, rfl⟩ | ⟨hr, ops, hf, -⟩ := (step_next_iff s t).1 h
  · exact .inl rfl
  · rw [step_eq_coreNext hi hr (cfgTau_of_fetch hf)] at h
    cases h
    exact .inr rfl

/-! ## The invariant, engine by engine -/

/-- AdcSampler's part of the invariant: R32 (a), (b), (f) and the pulse of R19. -/
structure AdcInv (v : Variant) (a : AdcRegs) : Prop where
  legal : adcLegal v a = true
  valid_of_done : a.state = .done → a.valid = true

/-- PixelSequencer's part: R32 (c), (e) and the values of `tau_cnt` (R27, R201). -/
structure SeqInv (tauW : Nat) (q : SeqRegs) : Prop where
  pix_le : q.pix.toNat ≤ 128
  latch : q.trigLatch = true → q.pix = 1
  exposing : 1 ≤ q.pix.toNat → q.pix.toNat ≤ 127 → q.tauCnt = 0
  endOfLine : q.pix = 128 → q.tauCnt + 1 < 2 ^ tauW
  fits : q.tauCnt < 2 ^ tauW

/-- FrameDumper's part: R32 (g), the places of the latch (R21, R138) and of the cursor (R17, R131). -/
structure DmpInv (d : DmpRegs) : Prop where
  last_cursor : d.lastByteSent = true → d.wordIdx = 0 ∧ d.byteIdx = 0
  last_state : d.lastByteSent = true → d.state = .wait ∨ d.state = .done ∨ d.state = .idle
  done_last : d.state = .done → d.lastByteSent = true
  cursor_start : d.state = .idle ∨ d.state = .sync → d.wordIdx = 0 ∧ d.byteIdx = 0

/-- The invariant is the conditions of the three engines, of the port `tau` and of the LineBuffer. -/
theorem inv_iff (s : State) : Inv s ↔
    AdcInv s.cfg.adcVariant s.adc ∧ SeqInv s.cfg.tauW s.seq ∧ DmpInv s.dmp ∧
      s.inp.tau < 2 ^ s.cfg.tauW ∧ 1 ≤ s.cfg.tauW ∧ Memory.wf s.mem = true := by
  constructor
  · intro h
    obtain ⟨hadc, hseq, hdmp⟩ := (legal_iff s).1 h.legal
    obtain ⟨hpix, hlatch⟩ := (seqLegal_iff _).1 hseq
    exact ⟨⟨hadc, h.valid_of_done⟩,
      ⟨hpix, hlatch, fun hlo hhi => h.tauCnt_exposing ⟨hlo, hhi⟩, h.tauCnt_endOfLine, h.tauCnt_fits⟩,
      ⟨(dmpLegal_iff _).1 hdmp, h.last_state, h.done_last, h.cursor_start⟩, h.tau_fits, h.width, h.mem_wf⟩
  · rintro ⟨hadc, hseq, hdmp, htau, hwidth, hmem⟩
    exact {
      legal := (legal_iff s).2
        ⟨hadc.legal, (seqLegal_iff _).2 ⟨hseq.pix_le, hseq.latch⟩, (dmpLegal_iff _).2 hdmp.last_cursor⟩
      valid_of_done := hadc.valid_of_done
      tauCnt_exposing := fun ⟨hlo, hhi⟩ => hseq.exposing hlo hhi
      tauCnt_endOfLine := hseq.endOfLine
      tauCnt_fits := hseq.fits
      tau_fits := htau
      width := hwidth
      last_state := hdmp.last_state
      done_last := hdmp.done_last
      cursor_start := hdmp.cursor_start
      mem_wf := hmem }

/-! ## The reset values keep it (R33, R170) -/

theorem adcInv_reset (v : Variant) (sr : BitVec 12) (sample : Sample) :
    AdcInv v { state := .idle, phase := 0, sr := sr, sample := sample, valid := false } :=
  ⟨rfl, nofun⟩

theorem seqInv_reset (tauW : Nat) : SeqInv tauW { pix := 0, tauCnt := 0, trigLatch := false } where
  pix_le := by decide
  latch := nofun
  exposing _ _ := rfl
  endOfLine := nofun
  fits := Nat.two_pow_pos tauW

theorem dmpInv_reset (b : Byte) :
    DmpInv { state := .idle, wordIdx := 0, byteIdx := 0, lastByteSent := false, txData := b } where
  last_cursor := nofun
  last_state := nofun
  done_last := nofun
  cursor_start _ := ⟨rfl, rfl⟩

/-- Settles O35: each engine is at its reset values, `tau` is 128 of 16 bits, and the LineBuffer lists nothing. -/
theorem resetStateSatisfiesTheInvariant : Obligations.ResetStateSatisfiesTheInvariant :=
  (inv_iff _).2 ⟨adcInv_reset _ _ _, seqInv_reset _, dmpInv_reset _, by decide, by decide, wf_reset⟩

/-! ## The tables keep it -/

theorem adcInv_adcNext {v : Variant} {a : AdcRegs} (h : AdcInv v a) (conv bit : Bool) :
    AdcInv v (Tables.adcNext v conv bit a) := by
  unfold Tables.adcNext
  cases hs : a.state with
  | idle => cases conv <;> exact ⟨rfl, nofun⟩
  | converting =>
    by_cases hp : a.phase.toNat < 15
    · have hnext : (a.phase + 1).toNat ≤ 15 := by
        simp only [BitVec.toNat_add, BitVec.ofNat_eq_ofNat, BitVec.toNat_ofNat]
        omega
      simp only [hp, if_true]
      exact ⟨by simpa [adcLegal] using hnext, nofun⟩
    · simp only [hp, if_false]
      cases v with
      | a => cases conv <;> exact ⟨rfl, nofun⟩
      | b => exact ⟨rfl, fun _ => rfl⟩
  | done => cases conv <;> exact ⟨rfl, nofun⟩

theorem seqInv_seqNext {tauW tau : Nat} {q : SeqRegs} (h : SeqInv tauW q) (hw : 1 ≤ tauW) (ht : tau < 2 ^ tauW)
    (scan valid : Bool) : SeqInv tauW (Tables.seqNext scan valid tau q) := by
  have hpow : 2 ≤ 2 ^ tauW := Nat.le_self_pow (by omega) 2
  obtain ⟨hpix, -, hexp, heol, hfits⟩ := h
  have hnoLatch : SeqInv tauW { q with trigLatch := false } := ⟨hpix, nofun, hexp, heol, hfits⟩
  unfold Tables.seqNext
  by_cases h0 : q.pix = 0
  · rw [if_pos h0]
    cases scan
    · exact hnoLatch
    · exact ⟨(by decide : (1 : BitVec 8).toNat ≤ 128), fun _ => rfl, fun _ _ => rfl, nofun, Nat.two_pow_pos tauW⟩
  rw [if_neg h0]
  by_cases h128 : q.pix = 128
  · rw [if_pos h128]
    have hfit := heol h128
    by_cases hhit : q.tauCnt + 1 < tau
    · -- the compare of R203 leaves the next increment below `tau`
      have hnext : q.tauCnt + 1 + 1 < 2 ^ tauW := by omega
      rw [if_pos hhit]
      exact ⟨Nat.le_refl 128, nofun, fun _ hhi => absurd hhi (by decide : ¬ 128 ≤ 127), fun _ => hnext, hfit⟩
    · rw [if_neg hhit]
      exact ⟨Nat.zero_le 128, nofun, nofun, nofun, hfit⟩
  · rw [if_neg h128]
    have hlo : 1 ≤ q.pix.toNat := by rw [pix_eq_zero_iff] at h0; omega
    have hhi : q.pix.toNat ≤ 127 := by rw [pix_eq_128_iff] at h128; omega
    have hcnt : q.tauCnt = 0 := hexp hlo hhi
    cases valid
    · exact hnoLatch
    · have hnext : (q.pix + 1).toNat ≤ 128 := by
        simp only [BitVec.toNat_add, BitVec.ofNat_eq_ofNat, BitVec.toNat_ofNat]
        omega
      rw [if_pos rfl, hcnt]
      exact ⟨hnext, nofun, fun _ _ => rfl, fun _ => hpow, Nat.two_pow_pos tauW⟩

theorem last_clear_of_send {d : DmpRegs} (h : DmpInv d) (hs : d.state = .send) : d.lastByteSent = false := by
  by_contra hl
  simpa [hs] using h.last_state (Bool.eq_true_of_not_eq_false hl)

theorem dmpInv_dmpNext {d : DmpRegs} (h : DmpInv d) (sync : Byte) (dump ready : Bool) (word : Sample) :
    DmpInv (Tables.dmpNext sync dump ready word d) := by
  unfold Tables.dmpNext
  cases hs : d.state with
  | idle =>
    cases dump
    · exact h
    · exact ⟨nofun, nofun, nofun, fun _ => ⟨rfl, rfl⟩⟩
  | sync => exact ⟨h.last_cursor, fun _ => .inl rfl, nofun, nofun⟩
  | send =>
    -- the latch is still clear in SEND, so moving the cursor breaks nothing
    have hlast := last_clear_of_send h hs
    by_cases hb : d.byteIdx = 0
    · simp only [hb, if_true]
      exact ⟨by simp [hlast], fun _ => .inl rfl, nofun, nofun⟩
    by_cases hw : d.wordIdx = 127
    · simp only [hb, hw, if_true, if_false]
      exact ⟨fun _ => ⟨rfl, rfl⟩, fun _ => .inl rfl, nofun, nofun⟩
    · simp only [hb, hw, if_false]
      exact ⟨by simp [hlast], fun _ => .inl rfl, nofun, nofun⟩
  | wait =>
    cases ready
    · exact h
    by_cases hlast : d.lastByteSent = true
    · simp only [if_pos hlast, if_true]
      exact ⟨h.last_cursor, fun _ => .inr (.inl rfl), fun _ => hlast, nofun⟩
    · simp only [if_neg hlast, if_true]
      exact ⟨h.last_cursor, fun hl => absurd hl hlast, nofun, nofun⟩
  | done => exact ⟨h.last_cursor, fun _ => .inr (.inr rfl), nofun, fun _ => h.last_cursor (h.done_last hs)⟩

theorem wf_memNext {m : Memory} (h : Memory.wf m = true) (eolWrite : Bool) (a : AdcRegs) (q : SeqRegs) :
    Memory.wf (Tables.memNext eolWrite a q m) = true := by
  unfold Tables.memNext
  split
  · exact wf_writeWord h _ _
  · exact h

/-- The port `tau` has `TAU_W` wires in the next cycle too (R23). -/
theorem tau_tick_lt {s : State} (h : s.inp.tau < 2 ^ s.cfg.tauW) : (tick s).inp.tau < 2 ^ s.cfg.tauW := by
  cases hs : s.stim with
  | nil => rwa [tick_inp_nil s hs]
  | cons i rest =>
    rw [tick_inp_cons s hs]
    exact Nat.mod_lt _ (Nat.two_pow_pos _)

/-- The passing of the clock keeps the invariant. -/
theorem inv_tick {s : State} (h : Inv s) : Inv (tick s) := by
  obtain ⟨hadc, hseq, hdmp, htau, hwidth, hmem⟩ := (inv_iff s).1 h
  simpa [inv_iff, hadc, hseq, hdmp, hwidth, hmem] using tau_tick_lt htau

theorem inv_resetEdge {s : State} (h : Inv s) : Inv (resetEdge s) :=
  (inv_iff _).2 ⟨adcInv_reset _ _ _, seqInv_reset _, dmpInv_reset _, h.tau_fits, h.width, h.mem_wf⟩

theorem inv_coreNext {s : State} (h : Inv s) : Inv (Tables.coreNext s) := by
  obtain ⟨hadc, hseq, hdmp, htau, hwidth, hmem⟩ := (inv_iff s).1 h
  exact inv_tick ((inv_iff _).2 ⟨adcInv_adcNext hadc _ _, seqInv_seqNext hseq hwidth htau _ _,
    dmpInv_dmpNext hdmp _ _ _ _, htau, hwidth, wf_memNext hmem _ _ _⟩)

/-- Settles O36: a step is the reset edge and the clock, or the tables' next state, and each keeps the invariant. -/
theorem everyStepKeepsTheInvariant : Obligations.EveryStepKeepsTheInvariant := by
  intro s t hi h
  obtain rfl | rfl := step_next_cases hi h
  · exact inv_tick (inv_resetEdge hi)
  · exact inv_coreNext hi

end Sys2Proof.Machine
end

section
/-! The LineBuffer (20_memory.md): a word reads as last written (R43, R44, R49), and the read in the cycle of a write
returns the old word (R45). -/

namespace Sys2Proof.Machine

/-! ## Read after write, at the word -/

/-- The word written reads as written: its two bytes are those of the value (R43, R205). -/
theorem readWord_writeWord_same {m : Memory} (hm : Memory.wf m = true) (i : WordAddr) (v : Sample) :
    readWord (writeWord m i v) i = v := by
  have hhi : readByte (writeWord m i v) (2 * i.toNat) = hiByte v := by simp [readByte_writeWord hm]
  have hlo : readByte (writeWord m i v) (2 * i.toNat + 1) = loByte v := by simp [readByte_writeWord hm]
  rw [readWord, hhi, hlo, wordOf_hiByte_loByte]

/-- Any other word reads as before: it shares no byte with the word written (R41, R49). -/
theorem readWord_writeWord_of_ne {m : Memory} (hm : Memory.wf m = true) {i j : WordAddr} (hne : j ≠ i) (v : Sample) :
    readWord (writeWord m i v) j = readWord m j := by
  have hne : j.toNat ≠ i.toNat := fun h => hne (BitVec.eq_of_toNat_eq h)
  have hhi : readByte (writeWord m i v) (2 * j.toNat) = readByte m (2 * j.toNat) := by
    rw [readByte_writeWord hm, if_neg (by omega), if_neg (by omega)]
  have hlo : readByte (writeWord m i v) (2 * j.toNat + 1) = readByte m (2 * j.toNat + 1) := by
    rw [readByte_writeWord hm, if_neg (by omega), if_neg (by omega)]
  rw [readWord, hhi, hlo, readWord]

/-- Settles O19: the word written, and a word with no byte in common with it. -/
theorem wordReadsBackAsWritten : Obligations.WordReadsBackAsWritten := by
  intro m i j v hm
  by_cases hj : j = i
  · rw [if_pos hj, hj, readWord_writeWord_same hm]
  · rw [if_neg hj, readWord_writeWord_of_ne hm hj]

/-! ## The read in the cycle of a write -/

/-- Both ways the write port can be enabled have `pix >= 1` (R108, R113). -/
theorem one_le_pix_of_wrEn {s : State} (hw : wrEn s = true) : 1 ≤ s.seq.pix.toNat := by
  obtain ⟨-, ⟨hlo, -⟩ | ⟨-, h128⟩⟩ := (wrEn_iff s).1 hw
  · exact hlo
  · simp [h128]

/-- An enabled write port leaves the memory of the table (R108). -/
theorem memNext_of_wrEn {s : State} (hw : wrEn s = true) :
    Tables.memNext s.cfg.eolWrite s.adc s.seq s.mem = memAfterWrite s := by
  rw [Tables.memNext, if_pos ((wrEn_iff s).1 hw), memAfterWrite, wrAddr_eq (one_le_pix_of_wrEn hw), wrData]

/-- A SEND loads the byte of `word` that `byte_idx` selects, wherever the cursor stands (R133 to R135). -/
theorem dmpNext_txData_of_send {d : DmpRegs} (hs : d.state = .send) (sync : Byte) (dump ready : Bool) (word : Sample) :
    (Tables.dmpNext sync dump ready word d).txData =
      if d.byteIdx = 0 then (word.extractLsb' 8 4).setWidth 8 else word.extractLsb' 0 8 := by
  simp only [Tables.dmpNext, hs]
  by_cases hb : d.byteIdx = 0
  · simp only [if_pos hb]
  by_cases hw : d.wordIdx = 127
  · simp only [if_neg hb, if_pos hw]
  · simp only [if_neg hb, if_neg hw]

/-- Settles O51: the step takes each engine from the cycle's own state (R2), so the dumper reads the memory before the write,
and the memory of the next state reads as written. -/
theorem readInTheWriteCycleSeesTheOldWord : Obligations.ReadInTheWriteCycleSeesTheOldWord := by
  intro s hi hr ht hw haddr
  refine ⟨rfl, _, step_eq_coreNext hi hr ht, ?_, fun hs => ?_⟩
  · calc readWord (Tables.coreNext s).mem s.dmp.wordIdx
        = readWord (memAfterWrite s) (wrAddr s) := by
          rw [Tables.coreNext, tick_mem, memNext_of_wrEn hw, haddr, rdAddr]
      _ = s.adc.sample := readWord_writeWord_same hi.mem_wf _ _
  · rw [Tables.coreNext, tick_dmp]
    exact dmpNext_txData_of_send hs _ _ _ _

end Sys2Proof.Machine
end

section
/-! The encodings (30_encoding.md): the operation map read by its rows (R72), the two wire formats (R60 to R64), the
assembly of the Sample (R61), and the refusal of the states that have no selector word of their own (R73). -/

namespace Sys2Proof.Machine

/-! ## The rows of the operation map (R72) -/

/-- Which rows are valid depends on the variant alone (R72, the "variants" column). -/
theorem wellFormed_congr {c c' : Config} (h : c.adcVariant = c'.adcVariant) (i : Instr) :
    wellFormed c i = wellFormed c' i := by
  simp only [wellFormed, h]

/-- The rows a configuration can have that agree on the bits both of them look at are one row. -/
theorem row_eq_of_agree (c : Config) (f : Format) : ∀ a ∈ rowsOf f, ∀ b ∈ rowsOf f,
    wellFormed c a.op = true → wellFormed c b.op = true → a.mtch &&& b.mask = b.mtch &&& a.mask → a = b := by
  simp only [wellFormed_congr (c := c) (c' := { Config.default with adcVariant := c.adcVariant }) rfl]
  cases c.adcVariant <;> cases f with
  | adcFrame | dumpByte => exact fun _ h => nomatch h
  | _ => decide

theorem selectedBy_iff (r : Row) (w : Word) : r.selectedBy w = true ↔ w &&& r.mask = r.mtch := beq_iff_eq

/-- No word matches two rows that one configuration has (R72). -/
theorem row_eq_of_selectedBy {c : Config} {f : Format} {w : Word} {a b : Row} (ha : a ∈ rowsOf f) (hb : b ∈ rowsOf f)
    (hwa : wellFormed c a.op = true) (hwb : wellFormed c b.op = true)
    (hsa : a.selectedBy w = true) (hsb : b.selectedBy w = true) : a = b := by
  rw [selectedBy_iff] at hsa hsb
  refine row_eq_of_agree c f a ha b hb hwa hwb ?_
  rw [← hsa, ← hsb, BitVec.and_assoc, BitVec.and_assoc, BitVec.and_comm a.mask]

/-- The row that the decoder finds is one of the format's, valid and matching. -/
theorem valid_of_find? {c : Config} {f : Format} {w : Word} {r : Row}
    (h : (rowsOf f).find? (fun r => wellFormed c r.op && r.selectedBy w) = some r) :
    r ∈ rowsOf f ∧ wellFormed c r.op = true ∧ r.selectedBy w = true :=
  ⟨List.mem_of_find?_eq_some h, by simpa using List.find?_some h⟩

/-- The decoder of the selector words answers an operation exactly where a valid row of it matches. -/
theorem decodeSelector_ok_iff (c : Config) (f : Format) (w : Word) (i : Instr) :
    decodeSelector c f w = .ok i ↔
      ∃ r ∈ rowsOf f, r.op = i ∧ wellFormed c i = true ∧ r.selectedBy w = true := by
  unfold decodeSelector
  constructor
  · intro h
    split at h
    next r hfind =>
      obtain ⟨hr, hwf, hsel⟩ := valid_of_find? hfind
      cases h
      exact ⟨r, hr, rfl, hwf, hsel⟩
    next => cases h
  · rintro ⟨r, hr, rfl, hwf, hsel⟩
    -- some row is found, and it can be no other
    obtain ⟨r', hfind⟩ : ∃ r', (rowsOf f).find? (fun r => wellFormed c r.op && r.selectedBy w) = some r' :=
      Option.isSome_iff_exists.1 (List.find?_isSome.2 ⟨r, hr, by simp [hwf, hsel]⟩)
    obtain ⟨hr', hwf', hsel'⟩ := valid_of_find? hfind
    rw [hfind, row_eq_of_selectedBy hr' hr hwf' hwf hsel' hsel]

/-- A word of its format's width is read by the format's own decoder. -/
theorem decode_eq_decodeSelector {c : Config} {f : Format} {w : Word} (hf : rowsOf f ≠ [])
    (hw : w.toNat < 2 ^ formatWidth f) : decode c f w = decodeSelector c f w := by
  cases f with
  | adcFrame | dumpByte => exact absurd rfl hf
  | _ => exact if_neg (Nat.not_le.2 hw)

/-- Settles O42: the decoder finds the first valid row that matches, and no other one does. -/
theorem selectorWordMatchesItsRowOnly : Obligations.SelectorWordMatchesItsRowOnly := by
  intro c f w i hf hw
  have hrows : rowsOf f ≠ [] := by
    rcases hf with rfl | rfl | rfl | rfl | rfl <;> exact List.cons_ne_nil _ _
  simp only [decode_eq_decodeSelector hrows hw, decodeSelector_ok_iff, selectedBy_iff]

/-! ## The bytes of the dump frame (R62, R63) -/

theorem decode_dumpByte (c : Config) (p : Nat) {w : Word} (hw : w.toNat < 2 ^ 8) :
    decode c (.dumpByte p) w = decodeDumpByte c p (w.setWidth 8) :=
  if_neg (Nat.not_le.2 hw)

/-- Position 0 holds SYNC_BYTE (R62). -/
theorem decodeDumpByte_sync (c : Config) : decodeDumpByte c 0 c.syncByte = .ok .wireDumpSync := by
  simp [decodeDumpByte]

/-- The upper half of a byte below 16 is the padding of a high byte (R63). -/
theorem extractLsb'_upper_eq_zero {b : Byte} (hb : b.toNat < 16) : b.extractLsb' 4 4 = 0 := by
  apply BitVec.eq_of_toNat_eq
  have : b.toNat >>> 4 = 0 := by rw [Nat.shiftRight_eq_div_pow]; omega
  simp [BitVec.extractLsb'_toNat, this]

/-- An odd position holds a high byte, its padding zero (R62, R63). -/
theorem decodeDumpByte_odd (c : Config) {p : Nat} (hp : p % 2 = 1) (hle : p ≤ 256) {b : Byte} (hb : b.toNat < 16) :
    decodeDumpByte c p b = .ok (.wireDumpHi (b.extractLsb' 0 4)) := by
  rw [decodeDumpByte, if_neg (by omega), if_neg (by omega), if_pos hp, if_pos (extractLsb'_upper_eq_zero hb)]

/-- An even position after 0 holds a low byte, any value (R62, R63). -/
theorem decodeDumpByte_even (c : Config) {p : Nat} (hp : p % 2 = 0) (h1 : 1 ≤ p) (hle : p ≤ 256) (b : Byte) :
    decodeDumpByte c p b = .ok (.wireDumpLo b) := by
  rw [decodeDumpByte, if_neg (by omega), if_neg (by omega), if_neg (by omega)]

/-! ## Decoding what was encoded -/

/-- Every operation's word fits its format and matches its row. -/
theorem encodingFitsTable (i : Instr) : Laws.EncodingFitsTable.Statement i := by
  open Laws.EncodingFitsTable in
  cases i
  exacts [adcHold, adcStart, adcShift, adcCapture, adcCaptureRestart, adcCaptureStop, adcDoneRestart, adcDoneStop,
    seqIdle, seqTrigger, seqExposeWait, seqAdvance, seqEolTick, seqEolExit,
    bufNowrite, bufWrite, bufReadHi, bufReadLo,
    dmpIdle, dmpTrigger, dmpSync, dmpSendHi, dmpSendLo, dmpSendLast, dmpWaitHold, dmpAcceptNext, dmpAcceptLast, dmpDone,
    wireAdcFrame _ _, wireDumpSync, wireDumpHi _, wireDumpLo _]

theorem encode_lt (c : Config) (i : Instr) : (encode c i).toNat < 2 ^ formatWidth i.format := (encodingFitsTable i c).1

/-- An operation of the map stands in its own selector only. -/
theorem format_eq_of_fits {i : Instr} {f : Format} (hrows : rowsOf i.format ≠ []) (hf : i.fitsFormat f = true) :
    f = i.format := by
  unfold Instr.fitsFormat at hf
  split at hf
  iterate 3 exact absurd rfl hrows
  exact (eq_of_beq hf).symm

/-- An operation with a row decodes from its word. -/
theorem decode_encode_of_row {c : Config} {i : Instr} {f : Format} (hrow : ∃ r ∈ rowsOf i.format, r.op = i)
    (hwf : wellFormed c i = true) (hf : i.fitsFormat f = true) : decode c f (encode c i) = .ok i := by
  obtain ⟨r, hr, hop⟩ := hrow
  have hrows := List.ne_nil_of_mem hr
  obtain ⟨hlt, hsel⟩ := encodingFitsTable i c
  rw [format_eq_of_fits hrows hf, decode_eq_decodeSelector hrows hlt, decodeSelector_ok_iff]
  exact ⟨r, hr, hop, hwf, hsel r hr hop⟩

theorem fitsFormat_wireAdcFrame {lead : BitVec 4} {data : Sample} {f : Format}
    (hf : Instr.fitsFormat (.wireAdcFrame lead data) f = true) : f = .adcFrame :=
  (eq_of_beq hf).symm

theorem fitsFormat_wireDumpSync {f : Format} (hf : Instr.fitsFormat .wireDumpSync f = true) : f = .dumpByte 0 := by
  cases f with
  | dumpByte p => rw [eq_of_beq (show (p == 0) = true from hf)]
  | _ => cases hf

theorem fitsFormat_wireDumpHi {h : BitVec 4} {f : Format} (hf : Instr.fitsFormat (.wireDumpHi h) f = true) :
    ∃ p, f = .dumpByte p ∧ p % 2 = 1 ∧ p ≤ 256 := by
  cases f with
  | dumpByte p => exact ⟨p, rfl, by simpa [Instr.fitsFormat] using hf⟩
  | _ => cases hf

theorem fitsFormat_wireDumpLo {l : BitVec 8} {f : Format} (hf : Instr.fitsFormat (.wireDumpLo l) f = true) :
    ∃ p, f = .dumpByte p ∧ p % 2 = 0 ∧ 1 ≤ p ∧ p ≤ 256 := by
  cases f with
  | dumpByte p => exact ⟨p, rfl, by simpa [Instr.fitsFormat] using hf⟩
  | _ => cases hf

/-- A frame decodes to its leading bits and its data bits, whatever they are (R60, R77). -/
theorem decode_adcFrame_append (c : Config) (lead : BitVec 4) (data : Sample) :
    decode c .adcFrame (lead ++ data) = .ok (.wireAdcFrame lead data) :=
  (if_neg (Nat.not_le.2 (lead ++ data).isLt)).trans
    (by simp only [BitVec.extractLsb'_append_eq_left, BitVec.extractLsb'_append_eq_right])

/-- Settles O41: an operation of the map by its row, a wire-format row by the decoder of its frame position. -/
theorem decodeOfEncodeIsTheRow : Obligations.DecodeOfEncodeIsTheRow := by
  intro c i f hwf hf
  cases i with
  | wireAdcFrame lead data =>
    rw [fitsFormat_wireAdcFrame hf]
    exact decode_adcFrame_append c lead data
  | wireDumpSync =>
    rw [fitsFormat_wireDumpSync hf, decode_dumpByte c 0 (encode_lt c .wireDumpSync)]
    simp [encode, decodeDumpByte_sync]
  | wireDumpHi h =>
    obtain ⟨p, rfl, hodd, hle⟩ := fitsFormat_wireDumpHi hf
    have hh : ((h.setWidth 16).setWidth 8 : Byte).toNat < 16 := by
      have := h.isLt
      simp only [BitVec.toNat_setWidth]
      omega
    rw [decode_dumpByte c p (encode_lt c (.wireDumpHi h)), encode, decodeDumpByte_odd c hodd hle hh]
    simp [← BitVec.setWidth_eq_extractLsb']
  | wireDumpLo l =>
    obtain ⟨p, rfl, heven, hpos, hle⟩ := fitsFormat_wireDumpLo hf
    rw [decode_dumpByte c p (encode_lt c (.wireDumpLo l)), encode, decodeDumpByte_even c heven hpos hle]
    simp
  | _ => exact decode_encode_of_row (by decide) hwf hf

/-! ## The selector words of a legal state -/

theorem decode_of_select {s : State} {f : Format} {w : Word} {i : Instr} (hw : selectorWord s f = some w)
    (h : select s f = .ok i) : decode s.cfg f w = .ok i := by
  unfold select at h
  split at h
  · cases h
  · simp only [hw] at h
    cases hd : decode s.cfg f w with
    | ok j => simpa [hd] using h
    | error e => simp [hd] at h

/-- `pix` never stands in the reserved zone (R32 (c), R67). -/
theorem zone_ne_reserved {s : State} (hl : legal s = true) : zone s ≠ 0b11 := by
  obtain ⟨hpix, -⟩ := (seqLegal_iff _).1 ((legal_iff s).1 hl).2.1
  unfold zone
  split_ifs
  any_goals decide
  omega

/-- Outside the reserved zone the sequencer has a row for every value of its guards. -/
theorem exists_decode_qsel (c : Config) {z : BitVec 2} (hz : z ≠ 0b11) (t v h : Bool) :
    ∃ i, decode c .qsel ((z ++ BitVec.ofBool t ++ BitVec.ofBool v ++ BitVec.ofBool h).setWidth 16) = .ok i := by
  rw [decode_qsel]
  rcases zone_cases z with rfl | rfl | rfl | rfl
  · exact ⟨_, rfl⟩
  · exact ⟨_, rfl⟩
  · exact ⟨_, rfl⟩
  · exact absurd rfl hz

/-- Settles O43: R32 rules out the reserved codes of the sampler and the sequencer; the other three words have none. -/
theorem everyReachableSelectorHasARow : Obligations.EveryReachableSelectorHasARow := by
  intro s hl
  exact ⟨⟨_, decode_of_select rfl (select_asel_eq_table hl)⟩, exists_decode_qsel _ (zone_ne_reserved hl) _ _ _,
    ⟨_, decode_wsel _ _⟩, ⟨_, decode_rsel _ _⟩, ⟨_, decode_dsel _ _ _ _ _ _ _⟩⟩

/-! ## The receiver of the dump frame (R64) -/

/-- The rows of the bytes of a line of words. -/
def lineRows (line : List Sample) : List Instr :=
  line.flatMap (fun w => [.wireDumpHi ((hiByte w).extractLsb' 0 4), .wireDumpLo (loByte w)])

theorem serialise_cons (w : Sample) (line : List Sample) :
    serialise (w :: line) = hiByte w :: loByte w :: serialise line := rfl

theorem length_serialise (line : List Sample) : (serialise line).length = 2 * line.length := by
  induction line with
  | nil => rfl
  | cons w line ih => rw [serialise_cons, List.length_cons, List.length_cons, List.length_cons, ih]; omega

/-- The words of the rows of a line are the line (R64, R205). -/
theorem wordsOf_lineRows (line : List Sample) : wordsOf (lineRows line) = line := by
  induction line with
  | nil => rfl
  | cons w line ih =>
    calc wordsOf (lineRows (w :: line))
        = wordOf (hiByte w) (loByte w) :: wordsOf (lineRows line) := rfl
      _ = w :: line := by rw [wordOf_hiByte_loByte, ih]

theorem decodeFrameFrom_cons {c : Config} {p : Nat} {b : Byte} {bs : List Byte} {i : Instr} {is : List Instr}
    (hb : decodeDumpByte c p b = .ok i) (hbs : decodeFrameFrom c (p + 1) bs = .ok is) :
    decodeFrameFrom c p (b :: bs) = .ok (i :: is) := by
  simp only [decodeFrameFrom, hb, hbs]

/-- From an odd position on, the bytes of a line that ends within the frame decode to the line's rows. -/
theorem decodeFrameFrom_serialise (c : Config) (line : List Sample) {p : Nat} (hodd : p % 2 = 1)
    (hle : p + 2 * line.length ≤ 257) : decodeFrameFrom c p (serialise line) = .ok (lineRows line) := by
  induction line generalizing p with
  | nil => rfl
  | cons w line ih =>
    rw [List.length_cons] at hle
    have hhi := decodeDumpByte_odd c hodd (by omega) (hiByte_lt w)
    have hlo := decodeDumpByte_even c (p := p + 1) (by omega) (by omega) (by omega) (loByte w)
    exact decodeFrameFrom_cons hhi (decodeFrameFrom_cons hlo (ih (p := p + 1 + 1) (by omega) (by omega)))

/-- Settles O45: the sync byte at position 0, then the rows of the line, whose words are the line. -/
theorem receiverRebuildsTheLine : Obligations.ReceiverRebuildsTheLine := by
  intro c line hlen
  have h128 : line.length = 128 := hlen
  have hbytes : (frameOf c line).length = 257 := by
    rw [frameOf, List.length_cons, length_serialise, h128]
  have hdec : decodeFrameFrom c 0 (frameOf c line) = .ok (.wireDumpSync :: lineRows line) :=
    decodeFrameFrom_cons (decodeDumpByte_sync c) (decodeFrameFrom_serialise c line rfl (by omega))
  have hwords : wordsOf (.wireDumpSync :: lineRows line) = line := wordsOf_lineRows line
  have hfull : ¬ (frameOf c line).length < Config.frameBytes := by rw [hbytes]; decide
  exact ⟨hbytes, by simp only [receiveFrame, if_neg hfull, hdec, hwords]⟩

/-! ## The assembly of the Sample (R61, R80) -/

/-- One shift: the new bit lowest, every other bit one place up (R80). -/
theorem getLsbD_shiftIn (sr : BitVec 12) (b : Bool) {i : Nat} (hi : i < 12) :
    (shiftIn sr b).getLsbD i = if i = 0 then b else sr.getLsbD (i - 1) := by
  change (sr.extractLsb' 0 11 ++ BitVec.ofBool b).getLsbD i = _
  rw [BitVec.getLsbD_append]
  cases i with
  | zero => simp
  | succ i => simp [show i < 11 by omega]

/-- After `n` shifts the lowest `n` bits are those shifted in, the last one lowest, and the old ones stand above. -/
theorem getLsbD_foldl_shiftIn (f : Nat → Bool) (sr : BitVec 12) (n : Nat) {i : Nat} (hi : i < 12) :
    (((List.range n).map f).foldl shiftIn sr).getLsbD i = if i < n then f (n - 1 - i) else sr.getLsbD (i - n) := by
  induction n generalizing i with
  | zero => rfl
  | succ n ih =>
    rw [List.range_succ, List.map_append, List.foldl_append, List.map_singleton, List.foldl_cons, List.foldl_nil,
      getLsbD_shiftIn _ _ hi]
    cases i with
    | zero => simp
    | succ i =>
      rw [if_neg (Nat.succ_ne_zero i), Nat.add_sub_cancel, ih (by omega), show n + 1 - 1 - (i + 1) = n - 1 - i by omega,
        Nat.add_sub_add_right]
      simp only [Nat.add_lt_add_iff_right]

/-- Settles O8: bit `i` of the register is the one shifted in at bit time `15 - i`, which is data bit `i`. -/
theorem sixteenShiftsAssembleTheSample : Obligations.SixteenShiftsAssembleTheSample := by
  intro lead data sr
  refine BitVec.eq_of_getLsbD_eq fun i hi => ?_
  rw [getLsbD_foldl_shiftIn _ sr 16 hi, if_pos (by omega), BitVec.getLsbD_append, show 15 - (16 - 1 - i) = i by omega,
    if_pos hi]

theorem frameAssembled_append (lead : BitVec 4) (data : Sample) (sr : BitVec 12) :
    frameAssembled (lead ++ data) sr = data :=
  sixteenShiftsAssembleTheSample lead data sr

/-! ## The wire-format rows (log entry 13) -/

/-- A wire-format row answers its effect where the wire stands at its place. -/
theorem performAt_of_here {here : Bool} {s : State} (eff : State → State) (hs : Ready s) (h : here = true) :
    performAt here s eff = .next (eff s) :=
  (performAt_next_iff here s _ eff).2 ⟨hs.1, hs.2, h, rfl⟩

theorem convert_iff (s : State) : convert s = true ↔ Exposing s := decide_eq_true_iff

/-- Settles O29: the row latches the assembled frame, in the state that the variant and `convert` give. -/
theorem wireAdcFrameYieldsItsDataBits : Obligations.WireAdcFrameYieldsItsDataBits := by
  intro s lead data hs hconv hphase
  have hhere : atFrameEnd s = true := by simp [atFrameEnd, hconv, hphase]
  have hexec : exec (.wireAdcFrame lead data) s = .next
      (adcLatch (frameAssembled (lead ++ data) s.adc.sr) (frameEndState s) (frameEndPhase s) s) :=
    performAt_of_here _ hs hhere
  rw [frameAssembled_append] at hexec
  refine ⟨_, hexec, rfl, rfl, rfl, rfl, fun hv => ?_, fun hv he => ?_, fun hv he => ?_⟩
  · simp [frameEndState, frameEndPhase, hv]
  · simp [frameEndState, frameEndPhase, hv, (convert_iff s).2 he]
  · simp [frameEndState, frameEndPhase, hv, eq_false_of_ne_true (mt (convert_iff s).1 he)]

/-- The byte 0000hhhh (R63). -/
theorem setWidth_eq_zero_append (h : BitVec 4) : h.setWidth 8 = (0 : BitVec 4) ++ h :=
  BitVec.setWidth_eq_append (by decide)

theorem exec_wireDumpLo {s : State} {l : Byte} (hs : Ready s) (hst : s.dmp.state = .send) (hb : s.dmp.byteIdx = 1) :
    exec (.wireDumpLo l) s = .next (dmpLoad l (s.dmp.wordIdx + 1) 0 (w127 s || s.dmp.lastByteSent) s) :=
  performAt_of_here _ hs (by simp [hst, hb])

/-- Settles O30: each row loads its byte where the dumper stands at its place, and moves the cursor as a SEND does. -/
theorem wireDumpBytesAreLoadedByPosition : Obligations.WireDumpBytesAreLoadedByPosition := by
  intro s h l hs
  refine ⟨fun hst => ?_, fun hst hb => ?_, fun hst hb hw => ?_, fun hst hb hw => ?_⟩
  · exact performAt_of_here _ hs (by simp [hst])
  · rw [← setWidth_eq_zero_append]
    exact performAt_of_here _ hs (by simp [hst, hb])
  · have hlast : w127 s = false := beq_eq_false_iff_ne.2 hw
    rw [exec_wireDumpLo hs hst hb, hlast, Bool.false_or]
    rfl
  · have hlast : w127 s = true := beq_iff_eq.2 hw
    rw [exec_wireDumpLo hs hst hb, hlast, hw]
    rfl

/-! ## The states that break R32 (U5) -/

/-- R32 is checked before anything is fetched (R73). -/
theorem step_of_illegal {s : State} (hr : s.inp.rst = false) (hl : legal s = false) :
    step s = .refused .illegalState := by
  simp [step, fetch, hr, hl]

theorem phase_of_idle {v : Variant} {a : AdcRegs} (hl : adcLegal v a = true) (hi : a.state = .idle) : a.phase = 0 := by
  simp only [adcLegal, hi, Bool.and_eq_true, beq_iff_eq] at hl
  exact hl.1

theorem phase_of_done {v : Variant} {a : AdcRegs} (hl : adcLegal v a = true) (hd : a.state = .done) : a.phase = 16 := by
  simp only [adcLegal, hd, Bool.and_eq_true, beq_iff_eq] at hl
  exact hl.1.1

/-- R14: the phase of every state is at most 16. -/
theorem phase_le {v : Variant} {a : AdcRegs} (hl : adcLegal v a = true) : a.phase.toNat ≤ 16 := by
  cases hs : a.state with
  | idle => simp [phase_of_idle hl hs]
  | converting => exact Nat.le_succ_of_le (phase_le_of_converting hl hs)
  | done => simp [phase_of_done hl hs]

/-- Settles O38: an illegal state is refused, and each of the named cases breaks a part of R32. -/
theorem illegalStateHasNoNextState : Obligations.IllegalStateHasNoNextState := by
  intro s hr
  have adcOf (hl : legal s = true) : adcLegal s.cfg.adcVariant s.adc = true := ((legal_iff s).1 hl).1
  refine ⟨step_of_illegal hr, fun hpix => ?_, fun hd ha => ?_, fun hp => ?_, fun hi hp => ?_, fun hc hp => ?_,
    fun hd hp => ?_⟩ <;> refine step_of_illegal hr (eq_false_of_ne_true fun hl => ?_)
  · have := ((seqLegal_iff _).1 ((legal_iff s).1 hl).2.1).1
    omega
  · have := variant_of_done (adcOf hl) hd
    simp [ha] at this
  · have := phase_le (adcOf hl)
    omega
  · exact hp (phase_of_idle (adcOf hl) hi)
  · have := phase_le_of_converting (adcOf hl) hc
    omega
  · exact hp (phase_of_done (adcOf hl) hd)

/-! ## Written words -/

/-- A high byte with a padding bit set is not aligned to the frame (R77). -/
theorem decodeDumpByte_padding (c : Config) {p : Nat} (hp : p % 2 = 1) (hle : p ≤ 256) {b : Byte}
    (hb : b.extractLsb' 4 4 ≠ 0) : decodeDumpByte c p b = .error .paddingSet := by
  rw [decodeDumpByte, if_neg (by omega), if_neg (by omega), if_pos hp, if_neg hb]

/-- Settles O44: a selector word by the fields that make it up, a frame or byte by its fields; 0b101 is no `dmp_state` and
matches no row. -/
theorem writtenWordsDecodeToTheirRows : Obligations.WrittenWordsDecodeToTheirRows :=
  ⟨decode_asel _ .idle true false, decode_asel _ .converting true true, decode_asel _ .converting true true,
    decode_asel _ .converting true false, decode_qsel _ 0b01 true true false, decode_qsel _ 0b10 false true true,
    decode_wsel _ true, decode_rsel _ 0, decode_dsel _ .send true true true 1 true,
    decode_dsel _ .wait false true false 0 false, rfl,
    decodeOfEncodeIsTheRow _ (.wireAdcFrame 0b0101 0xA5A) .adcFrame rfl rfl,
    decodeOfEncodeIsTheRow _ .wireDumpSync (.dumpByte 0) rfl rfl,
    decodeOfEncodeIsTheRow _ (.wireDumpHi 0xF) (.dumpByte 255) rfl rfl,
    (decode_dumpByte _ 1 (by decide)).trans (decodeDumpByte_padding _ (by decide) (by decide) (by decide)),
    decodeOfEncodeIsTheRow _ (.wireDumpLo 0xED) (.dumpByte 256) rfl rfl⟩

end Sys2Proof.Machine
end

section
/-! The AdcSampler (41_adc_sampler.md): when each operation is selected and what it answers (R81 to R88), the two one-cycle
pulses (R89, R106), and one conversion from an idle sampler (R95). -/

namespace Sys2Proof.Machine

/-! ## When a valid pulse can stand (R19, R32) -/

/-- R32 (f): a valid pulse outside DONE is variant A's, at phase 0. -/
theorem variant_a_of_valid {v : Variant} {a : AdcRegs} (hl : adcLegal v a = true) (hv : a.valid = true)
    (hd : a.state ≠ .done) : v = .a ∧ a.phase = 0 := by
  simp only [adcLegal, hv, Bool.and_eq_true, Bool.not_true, Bool.false_or] at hl
  obtain ⟨-, hpulse⟩ := hl
  cases v with
  | a => exact ⟨rfl, by simpa [hd] using hpulse⟩
  | b => exact absurd (eq_of_beq hpulse) hd

/-! ## The selectors of the operations (R81 to R88) -/

theorem convert_eq_true {s : State} (he : Exposing s) : convert s = true := (convert_iff s).2 he

theorem convert_eq_false {s : State} (he : ¬ Exposing s) : convert s = false :=
  eq_false_of_ne_true (mt (convert_iff s).1 he)

/-- Before bit time 15 the table's first CONVERTING row stands (R206). -/
theorem adcOp_converting_of_lt {v : Variant} {conv : Bool} {a : AdcRegs} (hs : a.state = .converting)
    (hp : a.phase.toNat < 15) : Tables.adcOp v conv a = .adcShift := by
  simp only [Tables.adcOp, hs, if_pos hp]

/-- In bit time 15 a capture stands, the one of the variant and of `convert` (R206). -/
theorem adcOp_converting_of_eq {v : Variant} {conv : Bool} {a : AdcRegs} (hs : a.state = .converting)
    (hp : a.phase = 15) : Tables.adcOp v conv a =
      if v = .b then .adcCapture else if conv = true then .adcCaptureRestart else .adcCaptureStop := by
  have h15 : ¬ a.phase.toNat < 15 := by rw [hp]; decide
  simp only [Tables.adcOp, hs, if_neg h15]
  cases v <;> rfl

/-- The sampler's operations of the table are those of its selector (R68). -/
theorem format_adcOp (v : Variant) (conv : Bool) (a : AdcRegs) : (Tables.adcOp v conv a).format = .asel := by
  unfold Tables.adcOp
  cases a.state with
  | idle | done => cases conv <;> rfl
  | converting =>
    by_cases hp : a.phase.toNat < 15
    · simp only [if_pos hp]
      rfl
    · simp only [if_neg hp]
      cases v with
      | a => cases conv <;> rfl
      | b => rfl

/-- A ready state performs the operation of the table; `h` names its arm of `exec`. -/
theorem exec_of_adcOp {op : Instr} {s : State} {eff : State → State} (h : exec op s = perform op s eff) (hs : Ready s)
    (hop : Tables.adcOp s.cfg.adcVariant (convert s) s.adc = op) : exec op s = .next (eff s) := by
  have hf : op.format = .asel := hop ▸ format_adcOp _ _ _
  refine exec_of_selected h hs.1 hs.2 ?_
  rw [hf, select_asel_eq_table hs.2, hop]

theorem adcLegal_of_ready {s : State} (hs : Ready s) : adcLegal s.cfg.adcVariant s.adc = true :=
  ((legal_iff s).1 hs.2).1

/-! ## What the operations answer (R81 to R88) -/

/-- Settles O1: without `convert` the idle row is ADC.HOLD; a pulse outside DONE is variant A's. -/
theorem adcHoldStaysIdleAndShifts : Obligations.AdcHoldStaysIdleAndShifts := by
  intro s hs hi he
  have hop : Tables.adcOp s.cfg.adcVariant (convert s) s.adc = .adcHold := by
    simp [Tables.adcOp, hi, convert_eq_false he]
  exact ⟨exec_of_adcOp rfl hs hop, by simp [outputs_eq, hi], rfl,
    fun hv => (variant_a_of_valid (adcLegal_of_ready hs) hv (by simp [hi])).1⟩

/-- Settles O2: with `convert` the idle row is ADC.START; `cs_n` follows `adc_state`. -/
theorem adcStartEntersConverting : Obligations.AdcStartEntersConverting := by
  intro s hs hi he
  have hop : Tables.adcOp s.cfg.adcVariant (convert s) s.adc = .adcStart := by
    simp [Tables.adcOp, hi, convert_eq_true he]
  exact ⟨_, exec_of_adcOp rfl hs hop, rfl, by simp [outputs_eq, hi], rfl⟩

/-- Up to bit time 14 the phase counts without wrap (R83, R201). -/
theorem toNat_phase_add_one {ph : BitVec 5} (hp : ph.toNat < 15) : (ph + 1).toNat = ph.toNat + 1 := by
  simp only [BitVec.toNat_add, BitVec.ofNat_eq_ofNat, BitVec.toNat_ofNat]
  omega

/-- Settles O3: before bit time 15 the row is ADC.SHIFT, whatever `convert` is. -/
theorem adcShiftAdvancesPhase : Obligations.AdcShiftAdvancesPhase := by
  intro s hs hc hp
  have hlt : s.adc.phase.toNat < 15 := by omega
  exact ⟨_, exec_of_adcOp rfl hs (adcOp_converting_of_lt hc hlt), rfl, toNat_phase_add_one hlt, by simp [outputs_eq, hc],
    fun hv => variant_a_of_valid (adcLegal_of_ready hs) hv (by simp [hc])⟩

/-- Settles O4: in bit time 15 variant B has one capture. -/
theorem adcCaptureLatchesShiftedSample : Obligations.AdcCaptureLatchesShiftedSample := by
  intro s hs hv hc hp
  have hop : Tables.adcOp s.cfg.adcVariant (convert s) s.adc = .adcCapture := by
    simp [adcOp_converting_of_eq hc hp, hv]
  exact ⟨_, exec_of_adcOp rfl hs hop, rfl, by simp [outputs_eq, hc], rfl, rfl⟩

/-- Settles O5: in bit time 15 variant A captures and restarts where `convert` is 1. -/
theorem adcCaptureRestartKeepsConverting : Obligations.AdcCaptureRestartKeepsConverting := by
  intro s hs hv hc hp he
  have hop : Tables.adcOp s.cfg.adcVariant (convert s) s.adc = .adcCaptureRestart := by
    simp [adcOp_converting_of_eq hc hp, hv, convert_eq_true he]
  exact ⟨_, exec_of_adcOp rfl hs hop, rfl, by simp [outputs_eq, hc], rfl, rfl⟩

/-- Settles O6: in bit time 15 variant A captures and stops where `convert` is 0. -/
theorem adcCaptureStopGoesIdle : Obligations.AdcCaptureStopGoesIdle := by
  intro s hs hv hc hp he
  have hop : Tables.adcOp s.cfg.adcVariant (convert s) s.adc = .adcCaptureStop := by
    simp [adcOp_converting_of_eq hc hp, hv, convert_eq_false he]
  exact ⟨_, exec_of_adcOp rfl hs hop, rfl, by simp [outputs_eq, hc], rfl, rfl⟩

/-- Settles O7: in DONE `convert` chooses between ADC.DONE_RESTART and ADC.DONE_STOP. -/
theorem adcDoneLastsOneCycle : Obligations.AdcDoneLastsOneCycle := by
  intro s hs hd hv
  refine ⟨fun he => ?_, fun he => ?_, by simp [outputs_eq, hd], hv, rfl⟩
  · have hop : Tables.adcOp s.cfg.adcVariant (convert s) s.adc = .adcDoneRestart := by
      simp [Tables.adcOp, hd, convert_eq_true he]
    exact exec_of_adcOp rfl hs hop
  · have hop : Tables.adcOp s.cfg.adcVariant (convert s) s.adc = .adcDoneStop := by
      simp [Tables.adcOp, hd, convert_eq_false he]
    exact exec_of_adcOp rfl hs hop

/-! ## The two pulses (R89, R106) -/

/-- An operation of the map that answers a next state has written its effect; `h` names its arm of `exec`. -/
theorem eq_of_exec {op : Instr} {s t : State} {eff : State → State} (h : exec op s = perform op s eff)
    (ht : exec op s = .next t) : t = eff s :=
  ((perform_next_iff op s t eff).1 (h.symm.trans ht)).2.2.2

/-- The three capture operations (R84, R85, R86). -/
def IsCapture (i : Instr) : Prop := i = .adcCapture ∨ i = .adcCaptureRestart ∨ i = .adcCaptureStop

/-- R89: of the sampler's operations the captures set `adc_valid`, and every other one clears it. -/
theorem valid_iff_isCapture {i : Instr} {s t : State} (hf : i.format = .asel) (h : exec i s = .next t) :
    t.adc.valid = true ↔ IsCapture i := by
  cases i with
  | adcHold | adcStart | adcShift | adcDoneRestart | adcDoneStop =>
    obtain rfl := eq_of_exec (eff := adcRun _ _) rfl h
    simp [IsCapture]
  | adcCapture | adcCaptureRestart | adcCaptureStop =>
    obtain rfl := eq_of_exec (eff := adcLatch (srNext s) _ _) rfl h
    simp [IsCapture]
  | _ => cases hf

/-- A capture is performed in bit time 15 of a conversion only (R206). -/
theorem converting_of_isCapture {v : Variant} {conv : Bool} {a : AdcRegs} (h : IsCapture (Tables.adcOp v conv a)) :
    a.state = .converting ∧ 15 ≤ a.phase.toNat := by
  cases hs : a.state with
  | idle | done => cases conv <;> simp [IsCapture, Tables.adcOp, hs] at h
  | converting =>
    refine ⟨rfl, Nat.le_of_not_lt fun hp => ?_⟩
    simp [IsCapture, adcOp_converting_of_lt hs hp] at h

/-- R89: no capture is performed in the cycle of a pulse, which is a DONE cycle or one at phase 0. -/
theorem not_isCapture_of_valid {v : Variant} {conv : Bool} {a : AdcRegs} (hl : adcLegal v a = true)
    (hv : a.valid = true) : ¬ IsCapture (Tables.adcOp v conv a) := by
  intro h
  obtain ⟨hc, hp⟩ := converting_of_isCapture h
  obtain ⟨-, hphase⟩ := variant_a_of_valid hl hv (by simp [hc])
  simp [hphase] at hp

/-- The sequencer's operations of the table are those of its selector (R69). -/
theorem format_seqOp (scan valid : Bool) (tau : Nat) (q : SeqRegs) : (Tables.seqOp scan valid tau q).format = .qsel := by
  unfold Tables.seqOp
  split_ifs <;> rfl

/-- SEQ.TRIGGER is performed at `pix = 0` only (R207). -/
theorem pix_of_seqTrigger {scan valid : Bool} {tau : Nat} {q : SeqRegs}
    (h : Tables.seqOp scan valid tau q = .seqTrigger) : q.pix = 0 := by
  unfold Tables.seqOp at h
  split_ifs at h
  assumption

/-- R106: of the sequencer's operations SEQ.TRIGGER sets `trig_latch`, and every other one clears it. -/
theorem trigLatch_iff_seqTrigger {i : Instr} {s t : State} (hf : i.format = .qsel) (h : exec i s = .next t) :
    t.seq.trigLatch = true ↔ i = .seqTrigger := by
  cases i with
  | seqIdle | seqTrigger | seqExposeWait | seqEolTick | seqEolExit =>
    obtain rfl := eq_of_exec (eff := seqMove _ _ _) rfl h
    simp
  | seqAdvance =>
    obtain rfl := eq_of_exec
      (eff := fun s => (seqMove (s.seq.pix + 1) s.seq.tauCnt false s).setMem (memAfterWrite s)) rfl h
    simp
  | _ => cases hf

theorem pix_after_seqTrigger {i : Instr} {s t : State} (hi : i = .seqTrigger) (h : exec i s = .next t) :
    t.seq.pix = 1 := by
  subst hi
  obtain rfl := eq_of_exec (eff := seqMove 1 0 true) rfl h
  rfl

/-- What a cycle without reset performs at the sampler and the sequencer: the operations of the tables, each writing its own
engine's registers (R2, R72, R158). -/
theorem coreOps_of_step {s t : State} (hr : s.inp.rst = false) (h : step s = .next t) :
    legal s = true ∧ CfgTau s ∧ ∃ sa sq, exec (Tables.coreOps s).adc s = .next sa ∧
      exec (Tables.coreOps s).seq s = .next sq ∧ t.adc = sa.adc ∧ t.seq = sq.seq := by
  obtain ⟨hrst, -⟩ | ⟨-, ops, hf, sa, sq, sw, sr, sd, ha, hq, -, -, -, rfl⟩ := (step_next_iff s t).1 h
  · simp [hr] at hrst
  have hl : legal s = true := ((fetch_ok_iff s ops).1 hf).1
  have ht : CfgTau s := cfgTau_of_fetch hf
  obtain rfl : ops = Tables.coreOps s := Except.ok.inj (hf.symm.trans (fetch_eq_coreOps hl ht))
  exact ⟨hl, ht, sa, sq, ha, hq, by simp, by simp⟩

/-- Settles O53: each pulse register is written as R89 and R106 say; a standing pulse rules out a capture, and a standing
latch means `pix = 1`, where SEQ.TRIGGER is not selected. -/
theorem pulsesNameTheirCycle : Obligations.PulsesNameTheirCycle := by
  intro s t hr h
  obtain ⟨hl, ht, sa, sq, ha, hq, hta, htq⟩ := coreOps_of_step hr h
  obtain ⟨hadc, hseq, -⟩ := (legal_iff s).1 hl
  have hvalid := valid_iff_isCapture (format_adcOp _ _ _) ha
  have hlatch := trigLatch_iff_seqTrigger (format_seqOp _ _ _ _) hq
  rw [hta, htq, select_asel_eq_table hl, select_qsel_eq_table hl ht]
  simp only [Except.ok.injEq]
  refine ⟨hvalid, fun hv => ?_, hlatch, fun hset => ?_, fun hset => ?_⟩
  · exact eq_false_of_ne_true (mt hvalid.1 (not_isCapture_of_valid hadc hv))
  · have hpix : s.seq.pix = 1 := ((seqLegal_iff _).1 hseq).2 hset
    refine eq_false_of_ne_true (mt hlatch.1 fun htrig => ?_)
    simp [pix_of_seqTrigger htrig] at hpix
  · have htrig := hlatch.1 hset
    exact ⟨pix_of_seqTrigger htrig, pix_after_seqTrigger htrig hq⟩

/-! ## A run, one step at a time -/

/-- A run is lengthened by the step of its last state. -/
theorem run_succ_of_step {M : Host.Core} {k : Nat} {s u t : M.State} (h : M.run k s = .next u) (ht : M.step u = .next t) :
    M.run (k + 1) s = .next t := by
  induction k generalizing s with
  | zero =>
    cases h
    simp only [Host.Core.run, ht]
  | succ k ih =>
    rw [Host.Core.run] at h ⊢
    cases hs : M.step s with
    | next s' =>
      rw [hs] at h
      exact ih h
    | fault | refused => simp [hs] at h

/-! ## A cycle of EXPOSING without a pulse -/

/-- SEQ.EXPOSE_WAIT holds `pix` (R102). -/
theorem seqNext_pix_of_wait {q : SeqRegs} (hlo : 1 ≤ q.pix.toNat) (hhi : q.pix.toNat ≤ 127) (scan : Bool) (tau : Nat) :
    (Tables.seqNext scan false tau q).pix = q.pix := by
  have h0 : q.pix ≠ 0 := by rw [ne_eq, pix_eq_zero_iff]; omega
  have h128 : q.pix ≠ 128 := by rw [ne_eq, pix_eq_128_iff]; omega
  rw [Tables.seqNext, if_neg h0, if_neg h128]
  rfl

theorem cfgTau_of_exposing {s : State} (he : Exposing s) : CfgTau s := by
  intro h128
  obtain ⟨-, hhi⟩ := he
  simp [h128] at hhi

/-- A cycle of EXPOSING without a pulse: `pix` holds, the sampler goes on with `convert = 1` as R206 says, and the ports take
the next line of the stimulus. -/
theorem step_of_exposing {s : State} (hi : Inv s) (hr : s.inp.rst = false) (he : Exposing s) (hv : s.adc.valid = false) :
    ∃ t, step s = .next t ∧ Inv t ∧ t.cfg = s.cfg ∧ t.seq.pix = s.seq.pix ∧
      t.adc = Tables.adcNext s.cfg.adcVariant true s.inp.sdata s.adc ∧
      ∀ i rest, s.stim = i :: rest → t.inp = onPins s.cfg i ∧ t.stim = rest := by
  have hstep := step_eq_coreNext hi hr (cfgTau_of_exposing he)
  refine ⟨_, hstep, inv_coreNext hi, ?_, ?_, ?_, fun i rest hs => ⟨?_, ?_⟩⟩
  · exact tick_cfg _
  · rw [Tables.coreNext, tick_seq, hv]
    exact seqNext_pix_of_wait he.1 he.2 _ _
  · rw [Tables.coreNext, tick_adc]
    exact congrArg (Tables.adcNext _ · _ _) (convert_eq_true he)
  · exact tick_inp_cons _ hs
  · rw [Tables.coreNext, tick_stim, hs, List.tail_cons]

/-! ## The rows of R206 that one conversion takes -/

theorem adcNext_idle {a : AdcRegs} (hs : a.state = .idle) (v : Variant) (bit : Bool) :
    Tables.adcNext v true bit a =
      { state := .converting, phase := 0, sr := shiftIn a.sr bit, sample := a.sample, valid := false } := by
  simp only [Tables.adcNext, hs]
  rfl

theorem adcNext_converting_of_lt {a : AdcRegs} (hs : a.state = .converting) (hp : a.phase.toNat < 15) (v : Variant)
    (conv bit : Bool) : Tables.adcNext v conv bit a =
      { state := .converting, phase := a.phase + 1, sr := shiftIn a.sr bit, sample := a.sample, valid := false } := by
  simp only [Tables.adcNext, hs, if_pos hp]
  rfl

/-- Bit time 15 under `convert`: the capture takes the shifted value, and variant A goes on converting. -/
theorem adcNext_converting_of_eq {a : AdcRegs} (hs : a.state = .converting) (hp : a.phase.toNat = 15) (v : Variant)
    (bit : Bool) : Tables.adcNext v true bit a =
      { state := if v = .b then .done else .converting, phase := if v = .b then 16 else 0,
        sr := shiftIn a.sr bit, sample := shiftIn a.sr bit, valid := true } := by
  have h15 : ¬ a.phase.toNat < 15 := by omega
  simp only [Tables.adcNext, hs, if_neg h15]
  cases v <;> rfl

/-! ## One conversion from an idle sampler (R95) -/

/-- Where a conversion begins: an idle sampler without a pulse, in EXPOSING, with 16 cycles of input and no reset. -/
structure ConversionBegins (s : State) : Prop where
  inv : Inv s
  idle : s.adc.state = .idle
  valid : s.adc.valid = false
  exposing : Exposing s
  rst : s.inp.rst = false
  length : 16 ≤ s.stim.length
  noReset : ∀ i ∈ s.stim, i.rst = false

/-- What `sdata` holds in bit time `p` of the conversion that begins in `s`: bit time 0 is the cycle after it (R60). -/
def frameBit (s : State) (p : Nat) : Bool := s.stim[p]?.any (fun i => i.sdata)

theorem frameBit_eq {s : State} {p : Nat} {i : Inputs} (h : s.stim[p]? = some i) : frameBit s p = i.sdata := by
  rw [frameBit, h, Option.any_some]

/-- `u` is the cycle of bit time `p` of the conversion that begins in `s` (R60, R95): the register has taken in the bits of
the bit times before. -/
structure InFrame (s u : State) (p : Nat) : Prop where
  inv : Inv u
  cfg : u.cfg = s.cfg
  pix : u.seq.pix = s.seq.pix
  state : u.adc.state = .converting
  phase : u.adc.phase.toNat = p
  valid : u.adc.valid = false
  sr : u.adc.sr = ((List.range p).map (frameBit s)).foldl shiftIn (srNext s)
  sdata : u.inp.sdata = frameBit s p
  rst : u.inp.rst = false
  stim : u.stim = s.stim.drop (p + 1)

/-- The bit of a bit time joins those before it. -/
theorem foldl_shiftIn_range_succ (f : Nat → Bool) (sr : BitVec 12) (p : Nat) :
    ((List.range (p + 1)).map f).foldl shiftIn sr = shiftIn (((List.range p).map f).foldl shiftIn sr) (f p) := by
  simp [List.range_succ]

/-- The ports of the cycle of bit time `p`. -/
theorem ports_of_stim {s : State} (hs : ConversionBegins s) {p : Nat} (hp : p ≤ 15) :
    ∃ i, s.stim.drop p = i :: s.stim.drop (p + 1) ∧ i.sdata = frameBit s p ∧ i.rst = false := by
  have hlt : p < s.stim.length := Nat.lt_of_lt_of_le (by omega) hs.length
  exact ⟨_, List.drop_eq_getElem_cons hlt, (frameBit_eq (List.getElem?_eq_getElem hlt)).symm,
    hs.noReset _ (List.getElem_mem hlt)⟩

/-- ADC.START is followed by bit time 0 (R82). -/
theorem inFrame_zero {s : State} (hs : ConversionBegins s) : ∃ u, step s = .next u ∧ InFrame s u 0 := by
  obtain ⟨u, hstep, hi, hcfg, hpix, hadc, hports⟩ := step_of_exposing hs.inv hs.rst hs.exposing hs.valid
  obtain ⟨i, hstim, hbit, hrst⟩ := ports_of_stim hs (Nat.zero_le 15)
  obtain ⟨hinp, hrest⟩ := hports i _ hstim
  rw [adcNext_idle hs.idle] at hadc
  exact ⟨u, hstep, {
    inv := hi, cfg := hcfg, pix := hpix, state := by rw [hadc], phase := by rw [hadc]; rfl, valid := by rw [hadc]
    sr := by rw [hadc]; rfl
    sdata := by rw [hinp]; exact hbit
    rst := by rw [hinp]; exact hrst
    stim := hrest }⟩

namespace InFrame
variable {s u : State} {p : Nat}

theorem exposing (h : InFrame s u p) (hs : ConversionBegins s) : Exposing u := by
  rw [Exposing, h.pix]
  exact hs.exposing

/-- `cs_n` is low in every bit time (R90). -/
theorem csN_low (h : InFrame s u p) : (outputs u).csN = false := by
  simp [outputs_eq, h.state]

/-- ADC.SHIFT goes on to the next bit time (R83). -/
theorem succ (h : InFrame s u p) (hs : ConversionBegins s) (hp : p < 15) :
    ∃ t, step u = .next t ∧ InFrame s t (p + 1) := by
  obtain ⟨t, hstep, hi, hcfg, hpix, hadc, hports⟩ := step_of_exposing h.inv h.rst (h.exposing hs) h.valid
  obtain ⟨i, hstim, hbit, hrst⟩ := ports_of_stim hs (p := p + 1) hp
  obtain ⟨hinp, hrest⟩ := hports i _ (h.stim.trans hstim)
  have hphase : u.adc.phase.toNat < 15 := by rw [h.phase]; exact hp
  rw [adcNext_converting_of_lt h.state hphase] at hadc
  exact ⟨t, hstep, {
    inv := hi, cfg := hcfg.trans h.cfg, pix := hpix.trans h.pix, state := by rw [hadc]
    phase := by rw [hadc]; simp only [toNat_phase_add_one hphase, h.phase]
    valid := by rw [hadc]
    sr := by rw [hadc, foldl_shiftIn_range_succ, ← h.sr, ← h.sdata]
    sdata := by rw [hinp]; exact hbit
    rst := by rw [hinp]; exact hrst
    stim := hrest }⟩

/-- The capture of bit time 15 delivers the sixteen bits of the frame (R84, R85). -/
theorem capture (h : InFrame s u 15) (hs : ConversionBegins s) :
    ∃ t, step u = .next t ∧ t.seq.pix = s.seq.pix ∧ t.adc.valid = true ∧
      t.adc.state = (if s.cfg.adcVariant = .b then .done else .converting) ∧
      t.adc.sample = ((List.range 16).map (frameBit s)).foldl shiftIn (srNext s) := by
  obtain ⟨t, hstep, -, -, hpix, hadc, -⟩ := step_of_exposing h.inv h.rst (h.exposing hs) h.valid
  rw [adcNext_converting_of_eq h.state h.phase, h.cfg] at hadc
  refine ⟨t, hstep, hpix.trans h.pix, by rw [hadc], by rw [hadc], ?_⟩
  rw [hadc, foldl_shiftIn_range_succ, ← h.sr, ← h.sdata]

end InFrame

/-- After `p + 1` steps the conversion is in bit time `p` (R95). -/
theorem run_inFrame {s : State} (hs : ConversionBegins s) {p : Nat} (hp : p ≤ 15) :
    ∃ u, Host.Core.run Sys2Proof.core (p + 1) s = .next u ∧ InFrame s u p := by
  induction p with
  | zero =>
    obtain ⟨u, hstep, hu⟩ := inFrame_zero hs
    exact ⟨u, run_succ_of_step rfl hstep, hu⟩
  | succ p ih =>
    obtain ⟨u, hrun, hu⟩ := ih (by omega)
    obtain ⟨t, hstep, ht⟩ := hu.succ hs hp
    exact ⟨t, run_succ_of_step hrun hstep, ht⟩

/-- Bit `11 - k` of the sixteen bits is the one of bit time `4 + k` (R61). -/
theorem getLsbD_frame (f : Nat → Bool) (sr : BitVec 12) {k : Nat} (hk : k < 12) :
    (((List.range 16).map f).foldl shiftIn sr).getLsbD (11 - k) = f (4 + k) := by
  rw [getLsbD_foldl_shiftIn f sr 16 (by omega), if_pos (by omega), show 16 - 1 - (11 - k) = 4 + k by omega]

/-- After a capture under `convert`, `cs_n` is high in variant B only (R84, R85, R90). -/
theorem csN_after_capture {v : Variant} {t : State} (h : t.adc.state = if v = .b then .done else .converting) :
    (outputs t).csN = decide (v = .b) := by
  cases v <;> simp [outputs_eq, h]

/-- Settles O55: sixteen steps walk the bit times of the frame, the 17th is the capture, and the last twelve bits taken in
are the Sample. -/
theorem conversionDeliversTheTwelveDataBits : Obligations.ConversionDeliversTheTwelveDataBits := by
  intro s hinv hidle hvalid hexp hrst hlen hno
  have hs : ConversionBegins s := ⟨hinv, hidle, hvalid, hexp, hrst, hlen, hno⟩
  refine ⟨fun k hlo hhi => ?_, ?_⟩
  · obtain ⟨u, hrun, hu⟩ := run_inFrame hs (p := k - 1) (by omega)
    rw [Nat.sub_add_cancel hlo] at hrun
    exact ⟨u, hrun, hu.state, hu.phase, hu.csN_low, hu.valid⟩
  · obtain ⟨u, hrun, hu⟩ := run_inFrame hs (Nat.le_refl 15)
    obtain ⟨t, hstep, hpix, hv, hstate, hsample⟩ := hu.capture hs
    refine ⟨t, run_succ_of_step hrun hstep, hv, hpix, hstate, csN_after_capture hstate, fun k hk => ?_⟩
    have hlt : 4 + k < s.stim.length := by omega
    have hline : s.stim[4 + k]? = some s.stim[4 + k] := List.getElem?_eq_getElem hlt
    exact ⟨_, hline, by rw [hsample, getLsbD_frame _ _ hk, frameBit_eq hline]⟩

end Sys2Proof.Machine
end

section
/-! The PixelSequencer (42_pixel_sequencer.md): when each operation is selected and what it answers (R100 to R105), the write
port (R108), the inputs that play no part (R110, R111, R145), the straggler (R112), and the length of END_OF_LINE (R110). -/

namespace Sys2Proof.Machine

/-! ## The selectors of the operations (R100 to R105, R207) -/

/-- Outside IDLE and END_OF_LINE the sequencer is exposing (R32 (c), R67). -/
theorem exposing_iff {s : State} (hl : legal s = true) : Exposing s ↔ s.seq.pix ≠ 0 ∧ s.seq.pix ≠ 128 := by
  obtain ⟨hpix, -⟩ := (seqLegal_iff _).1 ((legal_iff s).1 hl).2.1
  rw [Exposing, ne_eq, ne_eq, pix_eq_zero_iff, pix_eq_128_iff]
  omega

theorem not_exposing_of_zero {s : State} (h : s.seq.pix = 0) : ¬ Exposing s := by simp [Exposing, h]

theorem not_exposing_of_128 {s : State} (h : s.seq.pix = 128) : ¬ Exposing s := by simp [Exposing, h]

theorem seqOp_of_zero {q : SeqRegs} (h : q.pix = 0) (scan valid : Bool) (tau : Nat) :
    Tables.seqOp scan valid tau q = if scan = true then .seqTrigger else .seqIdle :=
  if_pos h

theorem seqOp_of_exposing {q : SeqRegs} (h0 : q.pix ≠ 0) (h128 : q.pix ≠ 128) (scan valid : Bool) (tau : Nat) :
    Tables.seqOp scan valid tau q = if valid = true then .seqAdvance else .seqExposeWait := by
  rw [Tables.seqOp, if_neg h0, if_neg h128]

theorem seqOp_of_128 {q : SeqRegs} (h : q.pix = 128) (scan valid : Bool) (tau : Nat) :
    Tables.seqOp scan valid tau q = if q.tauCnt + 1 < tau then .seqEolTick else .seqEolExit := by
  simp [Tables.seqOp, h]

theorem cfgTau_of_ne {s : State} (h : s.seq.pix ≠ 128) : CfgTau s := fun h128 => absurd h128 h

/-- The edge of SEQ.ADVANCE: the sequencer's, and the write port's (R103). -/
def seqAdvanceEdge (s : State) : State := (seqMove (s.seq.pix + 1) s.seq.tauCnt false s).setMem (memAfterWrite s)

theorem exec_seqAdvance_eq (s : State) : exec .seqAdvance s = perform .seqAdvance s seqAdvanceEdge := rfl

/-- A ready state performs the operation of the table; `h` names its arm of `exec`. -/
theorem exec_of_seqOp {op : Instr} {s : State} {eff : State → State} (h : exec op s = perform op s eff) (hs : Ready s)
    (ht : CfgTau s) (hop : Tables.seqOp s.inp.scanTrigger s.adc.valid s.inp.tau s.seq = op) :
    exec op s = .next (eff s) := by
  have hf : op.format = .qsel := hop ▸ format_seqOp _ _ _ _
  refine exec_of_selected h hs.1 hs.2 ?_
  rw [hf, select_qsel_eq_table hs.2 ht, hop]

/-- SEQ.ADVANCE is selected by a pulse in EXPOSING, and nowhere else; the refused configuration selects nothing. -/
theorem select_seqAdvance_iff {s : State} (hl : legal s = true) :
    select s .qsel = .ok .seqAdvance ↔ s.adc.valid = true ∧ Exposing s := by
  by_cases h128 : s.seq.pix = 128
  · refine iff_of_false (fun h => ?_) (fun h => not_exposing_of_128 h128 h.2)
    by_cases ht : CfgTau s
    · rw [select_qsel_eq_table hl ht, seqOp_of_128 h128] at h
      split_ifs at h <;> cases h
    · rw [← tauRefused_eq_false_iff, Bool.not_eq_false] at ht
      rw [select_qsel_refused s ht] at h
      cases h
  rw [select_qsel_eq_table hl (cfgTau_of_ne h128), exposing_iff hl]
  by_cases h0 : s.seq.pix = 0
  · rw [seqOp_of_zero h0]
    cases s.inp.scanTrigger <;> simp [h0]
  · rw [seqOp_of_exposing h0 h128]
    cases s.adc.valid
    · simp
    · exact iff_of_true rfl ⟨rfl, h0, h128⟩

/-! ## The write port (R108, R202) -/

theorem wrEn_iff_exposing (s : State) :
    wrEn s = true ↔ s.adc.valid = true ∧ (Exposing s ∨ (s.cfg.eolWrite = true ∧ s.seq.pix = 128)) :=
  wrEn_iff s

theorem wrEn_eq_false_of_zero {s : State} (h : s.seq.pix = 0) : wrEn s = false := by
  simp [wrEn, convert_eq_false (not_exposing_of_zero h), h]

/-- At the end of the line only `EOL_WRITE` enables the port (R113). -/
theorem wrEn_eq_false_of_128 {s : State} (h : s.seq.pix = 128) (he : s.cfg.eolWrite = false) : wrEn s = false := by
  simp [wrEn, convert_eq_false (not_exposing_of_128 h), he]

theorem wrEn_eq_valid_of_exposing {s : State} (h : Exposing s) : wrEn s = s.adc.valid := by
  simp [wrEn, convert_eq_true h]

/-- From pix 1 on the word addressed is `pix - 1`, up to word 127. -/
theorem toNat_wrAddr {s : State} (hlo : 1 ≤ s.seq.pix.toNat) (hhi : s.seq.pix.toNat ≤ 128) :
    (wrAddr s).toNat = s.seq.pix.toNat - 1 := by
  rw [wrAddr_eq hlo, BitVec.toNat_ofNat]
  omega

/-- At `pix = 0` the subtraction wraps (R202). -/
theorem wrAddr_of_zero {s : State} (h : s.seq.pix = 0) : wrAddr s = 127 := by
  rw [wrAddr, h]
  rfl

/-- Settles O18: the port by its condition, its address from `pix`, and SEQ.ADVANCE by its selector. -/
theorem writePortDrive : Obligations.WritePortDrive := by
  intro s hl
  have hpix : s.seq.pix.toNat ≤ 128 := ((seqLegal_iff _).1 ((legal_iff s).1 hl).2.1).1
  have hdefault (he : s.cfg.eolWrite = false) : wrEn s = true ↔ s.adc.valid = true ∧ Exposing s := by
    simp [wrEn_iff_exposing, he]
  refine ⟨wrEn_iff_exposing s, ?_, rfl, wrEn_eq_false_of_zero, fun he => ?_, fun he hw => ?_⟩
  · by_cases h0 : s.seq.pix = 0
    · rw [if_pos h0, wrAddr_of_zero h0]
      rfl
    · rw [if_neg h0]
      rw [pix_eq_zero_iff] at h0
      exact toNat_wrAddr (by omega) hpix
  · rw [hdefault he, select_seqAdvance_iff hl]
  · obtain ⟨-, hlo, hhi⟩ := (hdefault he).1 hw
    rw [toNat_wrAddr hlo hpix]
    omega

/-! ## What the operations answer (R100 to R105) -/

/-- R32 (e): the latch stands in the first cycle of `pix = 1` only. -/
theorem pix_of_trigLatch {s : State} (hl : legal s = true) (h : s.seq.trigLatch = true) : s.seq.pix = 1 :=
  ((seqLegal_iff _).1 ((legal_iff s).1 hl).2.1).2 h

/-- Settles O9: without a trigger the row of `pix = 0` is SEQ.IDLE. -/
theorem seqIdleHoldsPixAndTauCnt : Obligations.SeqIdleHoldsPixAndTauCnt := by
  intro s hs hpix hscan
  have hop : Tables.seqOp s.inp.scanTrigger s.adc.valid s.inp.tau s.seq = .seqIdle := by
    simp [seqOp_of_zero hpix, hscan]
  exact ⟨exec_of_seqOp rfl hs (cfgTau_of_ne (by simp [hpix])) hop, convert_eq_false (not_exposing_of_zero hpix),
    wrEn_eq_false_of_zero hpix⟩

/-- Settles O10: with a trigger the row of `pix = 0` is SEQ.TRIGGER; the latch it sets shows in the next cycle. -/
theorem seqTriggerStartsAScan : Obligations.SeqTriggerStartsAScan := by
  intro s hs hpix hscan
  have hop : Tables.seqOp s.inp.scanTrigger s.adc.valid s.inp.tau s.seq = .seqTrigger := by
    simp [seqOp_of_zero hpix, hscan]
  have hlatch : s.seq.trigLatch = false := eq_false_of_ne_true fun h => by
    simpa [hpix] using pix_of_trigLatch hs.2 h
  exact ⟨_, exec_of_seqOp rfl hs (cfgTau_of_ne (by simp [hpix])) hop, rfl, convert_eq_false (not_exposing_of_zero hpix),
    wrEn_eq_false_of_zero hpix, by simp [outputs_eq, hlatch], rfl, by simp [outputs_eq]⟩

/-- In EXPOSING the valid pulse alone chooses the row. -/
theorem seqOp_eq_of_exposing {s : State} (hl : legal s = true) (he : Exposing s) :
    Tables.seqOp s.inp.scanTrigger s.adc.valid s.inp.tau s.seq =
      if s.adc.valid = true then .seqAdvance else .seqExposeWait := by
  obtain ⟨h0, h128⟩ := (exposing_iff hl).1 he
  exact seqOp_of_exposing h0 h128 _ _ _

/-- Settles O11: without a pulse the row of EXPOSING is SEQ.EXPOSE_WAIT, whatever the trigger. -/
theorem seqExposeWaitHoldsPix : Obligations.SeqExposeWaitHoldsPix := by
  intro s hs he hv
  have hop : Tables.seqOp s.inp.scanTrigger s.adc.valid s.inp.tau s.seq = .seqExposeWait := by
    rw [seqOp_eq_of_exposing hs.2 he, if_neg (ne_true_of_eq_false hv)]
  exact ⟨exec_of_seqOp rfl hs (cfgTau_of_exposing he) hop, convert_eq_true he, (wrEn_eq_valid_of_exposing he).trans hv,
    fun h => ⟨pix_of_trigLatch hs.2 h, by simp [outputs_eq, h]⟩⟩

/-- In EXPOSING `pix` counts without wrap (R103, R201). -/
theorem toNat_pix_add_one {p : BitVec 8} (hp : p.toNat ≤ 127) : (p + 1).toNat = p.toNat + 1 := by
  simp only [BitVec.toNat_add, BitVec.ofNat_eq_ofNat, BitVec.toNat_ofNat]
  omega

theorem exec_seqAdvance {s : State} (hs : Ready s) (he : Exposing s) (hv : s.adc.valid = true) :
    exec .seqAdvance s = .next (seqAdvanceEdge s) := by
  have hop : Tables.seqOp s.inp.scanTrigger s.adc.valid s.inp.tau s.seq = .seqAdvance := by
    rw [seqOp_eq_of_exposing hs.2 he, if_pos hv]
  exact exec_of_seqOp (exec_seqAdvance_eq s) hs (cfgTau_of_exposing he) hop

/-- The port's word reads as the Sample after the write (R43, R108). -/
theorem readWord_memAfterWrite {s : State} (hm : Memory.wf s.mem = true) :
    readWord (memAfterWrite s) (wrAddr s) = s.adc.sample :=
  readWord_writeWord_same hm _ _

/-- The write touches the two bytes of the port's word only (R49). -/
theorem readByte_memAfterWrite_of_ne {s : State} (hm : Memory.wf s.mem = true) {a : Nat}
    (hhi : a ≠ 2 * (wrAddr s).toNat) (hlo : a ≠ 2 * (wrAddr s).toNat + 1) :
    readByte (memAfterWrite s) a = readByte s.mem a := by
  rw [memAfterWrite, readByte_writeWord hm, if_neg hlo, if_neg hhi]

/-- Settles O12: with a pulse the row of EXPOSING is SEQ.ADVANCE, and its write is the port's. -/
theorem seqAdvanceCountsAndStoresTheSample : Obligations.SeqAdvanceCountsAndStoresTheSample := by
  intro s hs he hv hm
  obtain ⟨hlo, hhi⟩ := he
  have haddr := toNat_wrAddr hlo (by omega)
  refine ⟨_, exec_seqAdvance hs ⟨hlo, hhi⟩ hv, rfl, toNat_pix_add_one hhi, ?_, fun a ha ha' => ?_,
    convert_eq_true ⟨hlo, hhi⟩, (wrEn_eq_valid_of_exposing ⟨hlo, hhi⟩).trans hv, haddr, rfl, fun h127 => ?_⟩
  · rw [← wrAddr_eq hlo]
    exact readWord_memAfterWrite hm
  · rw [← haddr] at ha ha'
    exact readByte_memAfterWrite_of_ne hm ha ha'
  · have h128 : s.seq.pix + 1 = 128 := by rw [h127]; rfl
    exact ⟨h128, convert_eq_false (not_exposing_of_128 h128)⟩

/-- Under the invariant the increment of END_OF_LINE is not cut (R201). -/
theorem tauBumped_eq {s : State} (hi : Inv s) (h : s.seq.pix = 128) : tauBumped s = s.seq.tauCnt + 1 :=
  Nat.mod_eq_of_lt (hi.tauCnt_endOfLine h)

/-- Settles O13: below `tau` the row of `pix = 128` is SEQ.EOL_TICK. -/
theorem seqEolTickCounts : Obligations.SeqEolTickCounts := by
  intro s hi hr hpix hlt
  have hop : Tables.seqOp s.inp.scanTrigger s.adc.valid s.inp.tau s.seq = .seqEolTick := by
    rw [seqOp_of_128 hpix, if_pos hlt]
  have htau : CfgTau s := fun _ => Nat.ne_of_gt (Nat.zero_lt_of_lt hlt)
  have hexec : exec .seqEolTick s = .next (seqMove s.seq.pix (tauBumped s) false s) :=
    exec_of_seqOp rfl ⟨hr, hi.legal⟩ htau hop
  rw [hpix, tauBumped_eq hi hpix] at hexec
  exact ⟨hexec, convert_eq_false (not_exposing_of_128 hpix), wrEn_eq_false_of_128 hpix⟩

/-- Settles O14: from `tau` on the row of `pix = 128` is SEQ.EOL_EXIT, whatever the trigger. -/
theorem seqEolExitReturnsToZero : Obligations.SeqEolExitReturnsToZero := by
  intro s hi hr hpix htau hle
  have hop : Tables.seqOp s.inp.scanTrigger s.adc.valid s.inp.tau s.seq = .seqEolExit := by
    rw [seqOp_of_128 hpix, if_neg (Nat.not_lt.2 hle)]
  have hexec : exec .seqEolExit s = .next (seqMove 0 (tauBumped s) false s) :=
    exec_of_seqOp rfl ⟨hr, hi.legal⟩ (fun _ => htau) hop
  rw [tauBumped_eq hi hpix] at hexec
  exact ⟨hexec, convert_eq_false (not_exposing_of_128 hpix), wrEn_eq_false_of_128 hpix,
    Nat.le_sub_one_of_lt (hi.tauCnt_endOfLine hpix)⟩

/-! ## A step from a state that keeps R32

The tables of R207 do not cut `tau_cnt`, so from a state of which only R32 is known the sequencer's registers are those that
its operation answers. -/

/-- A selected operation of the sequencer answers a next state. -/
theorem exists_exec_of_qsel {op : Instr} {s : State} (hs : Ready s) (hf : op.format = .qsel)
    (hsel : select s .qsel = .ok op) : ∃ t, exec op s = .next t := by
  cases op with
  | seqIdle | seqTrigger | seqExposeWait | seqEolTick | seqEolExit =>
    exact ⟨_, exec_of_selected (eff := seqMove _ _ _) rfl hs.1 hs.2 hsel⟩
  | seqAdvance =>
    exact ⟨_, exec_of_selected (exec_seqAdvance_eq s) hs.1 hs.2 hsel⟩
  | _ => cases hf

/-- A ready state steps, the refused configuration aside (U1). -/
theorem exists_step_of_ready {s : State} (hs : Ready s) (ht : CfgTau s) : ∃ t, step s = .next t := by
  obtain ⟨hr, hl⟩ := hs
  obtain ⟨sa, ea, -⟩ := exec_adcOp hr hl
  obtain ⟨sq, eq⟩ := exists_exec_of_qsel ⟨hr, hl⟩ (format_seqOp _ _ _ _) (select_qsel_eq_table hl ht)
  obtain ⟨sw, ew, -⟩ := exec_wrOp hr hl
  obtain ⟨sr, er⟩ := exec_rdOp hr hl
  obtain ⟨sd, ed, -⟩ := exec_dmpOp hr hl
  exact ⟨_, (step_next_iff s _).2 (.inr ⟨hr, _, fetch_eq_coreOps hl ht, sa, sq, sw, sr, sd, ea, eq, ew, er, ed, rfl⟩)⟩

/-- The registers after a cycle without reset: the sampler's, the LineBuffer and the dumper's as the tables say, and the
sequencer's as its operation answers (R2, R158). -/
theorem registers_of_step {s t : State} (hr : s.inp.rst = false) (h : step s = .next t) :
    t.adc = Tables.adcNext s.cfg.adcVariant (convert s) s.inp.sdata s.adc ∧
    t.mem = Tables.memNext s.cfg.eolWrite s.adc s.seq s.mem ∧
    t.dmp = Tables.dmpNext s.cfg.syncByte s.inp.dumpTrigger s.inp.sinkReady (readWord s.mem s.dmp.wordIdx) s.dmp ∧
    ∃ sq, exec (Tables.seqOp s.inp.scanTrigger s.adc.valid s.inp.tau s.seq) s = .next sq ∧ t.seq = sq.seq := by
  obtain ⟨hrst, -⟩ | ⟨-, ops, hf, sa, sq, sw, sr, sd, ea, eq, ew, -, ed, rfl⟩ := (step_next_iff s t).1 h
  · simp [hr] at hrst
  have hl : legal s = true := ((fetch_ok_iff s ops).1 hf).1
  obtain rfl : ops = Tables.coreOps s := Except.ok.inj (hf.symm.trans (fetch_eq_coreOps hl (cfgTau_of_fetch hf)))
  obtain ⟨ta, ea', hadc⟩ := exec_adcOp hr hl
  obtain ⟨tw, ew', hmem⟩ := exec_wrOp hr hl
  obtain ⟨td, ed', hdmp⟩ := exec_dmpOp hr hl
  obtain rfl : sa = ta := Host.Outcome.next.inj (ea.symm.trans ea')
  obtain rfl : sw = tw := Host.Outcome.next.inj (ew.symm.trans ew')
  obtain rfl : sd = td := Host.Outcome.next.inj (ed.symm.trans ed')
  exact ⟨by rw [mergeEngines_adc, hadc], by rw [mergeEngines_mem, hmem], by rw [mergeEngines_dmp, hdmp], sq, eq,
    mergeEngines_seq _ _ _ _ _⟩

/-! ## The inputs that play no part (R110, R111, R145) -/

/-- The input ports choose the sequencer's operation, and what it writes depends on them no further. -/
theorem seq_of_exec_withInputs {op : Instr} {s t u : State} {i : Inputs} (hf : op.format = .qsel)
    (ht : exec op s = .next t) (hu : exec op { s with inp := i } = .next u) : u.seq = t.seq := by
  cases op with
  | seqIdle | seqTrigger | seqExposeWait | seqEolTick | seqEolExit =>
    obtain rfl := eq_of_exec (eff := seqMove _ _ _) rfl ht
    obtain rfl := eq_of_exec (eff := seqMove _ _ _) rfl hu
    rfl
  | seqAdvance =>
    obtain rfl := eq_of_exec (exec_seqAdvance_eq _) ht
    obtain rfl := eq_of_exec (exec_seqAdvance_eq _) hu
    rfl
  | _ => cases hf

/-- Two cycles that differ in their input ports only end with the same registers and memory, where `sdata`, the sequencer's
operation and the dumper's next registers are the same. -/
theorem registers_eq_of_inputs {s t u : State} {i : Inputs} (hr : s.inp.rst = false) (hri : i.rst = false)
    (ht : step s = .next t) (hu : step { s with inp := i } = .next u) (hsdata : i.sdata = s.inp.sdata)
    (hop : Tables.seqOp i.scanTrigger s.adc.valid i.tau s.seq =
      Tables.seqOp s.inp.scanTrigger s.adc.valid s.inp.tau s.seq)
    (hnext : Tables.dmpNext s.cfg.syncByte i.dumpTrigger i.sinkReady (readWord s.mem s.dmp.wordIdx) s.dmp =
      Tables.dmpNext s.cfg.syncByte s.inp.dumpTrigger s.inp.sinkReady (readWord s.mem s.dmp.wordIdx) s.dmp) :
    u.adc = t.adc ∧ u.seq = t.seq ∧ u.mem = t.mem ∧ u.dmp = t.dmp := by
  obtain ⟨hadc, hmem, hdmp, sq, hsq, hseq⟩ := registers_of_step hr ht
  obtain ⟨hadc', hmem', hdmp', sq', hsq', hseq'⟩ := registers_of_step hri hu
  refine ⟨?_, ?_, hmem'.trans hmem.symm, hdmp'.trans (hnext.trans hdmp.symm)⟩
  · rw [hadc', hadc, ← hsdata]
    rfl
  · rw [hseq', hseq]
    rw [hop] at hsq'
    exact seq_of_exec_withInputs (format_seqOp _ _ _ _) hsq hsq'

/-- A busy sequencer does not look at the trigger (R111). -/
theorem seqOp_scan_congr {q : SeqRegs} (h : q.pix ≠ 0) (scan scan' valid : Bool) (tau : Nat) :
    Tables.seqOp scan valid tau q = Tables.seqOp scan' valid tau q := by
  rw [Tables.seqOp, Tables.seqOp, if_neg h, if_neg h]

/-- Outside END_OF_LINE the sequencer does not look at `tau` (R110). -/
theorem seqOp_tau_congr {q : SeqRegs} (h : q.pix ≠ 128) (scan valid : Bool) (tau tau' : Nat) :
    Tables.seqOp scan valid tau q = Tables.seqOp scan valid tau' q := by
  rw [Tables.seqOp, Tables.seqOp, if_neg h, if_neg h]

/-- A busy dumper does not look at the trigger (R145). -/
theorem dmpNext_dump_congr {d : DmpRegs} (h : d.state ≠ .idle) (sync : Byte) (dump dump' ready : Bool) (word : Sample) :
    Tables.dmpNext sync dump ready word d = Tables.dmpNext sync dump' ready word d := by
  unfold Tables.dmpNext
  cases hs : d.state with
  | idle => exact absurd hs h
  | sync | send | wait | done => rfl

/-- Settles O47: a trigger is read in its engine's idle state only. -/
theorem triggersAreIgnoredWhileBusy : Obligations.TriggersAreIgnoredWhileBusy := by
  intro s t u b hr
  refine ⟨fun hpix ht hu => ?_, fun hidle ht hu => ?_⟩
  · exact registers_eq_of_inputs (i := { s.inp with scanTrigger := b }) hr hr ht hu rfl (seqOp_scan_congr hpix _ _ _ _) rfl
  · exact registers_eq_of_inputs (i := { s.inp with dumpTrigger := b }) hr hr ht hu rfl rfl
      (dmpNext_dump_congr hidle _ _ _ _ _)

/-- Settles O48: outside `pix = 128` no value of `tau` is refused, and none is read. -/
theorem tauIsReadOnlyAtEndOfLine : Obligations.TauIsReadOnlyAtEndOfLine := by
  intro s t n hr hpix ht
  have hl : legal s = true := (coreOps_of_step hr ht).1
  obtain ⟨u, hu⟩ := exists_step_of_ready (s := { s with inp := { s.inp with tau := n } }) ⟨hr, hl⟩ (cfgTau_of_ne hpix)
  exact ⟨u, hu,
    registers_eq_of_inputs (i := { s.inp with tau := n }) hr hr ht hu rfl (seqOp_tau_congr hpix _ _ _ _) rfl⟩

/-! ## The straggler (R112) -/

/-- In variant B a valid pulse is the DONE cycle (R19). -/
theorem done_of_valid {v : Variant} {a : AdcRegs} (hl : adcLegal v a = true) (hb : v = .b) (hv : a.valid = true) :
    a.state = .done := by
  by_contra hd
  obtain ⟨ha, -⟩ := variant_a_of_valid hl hv hd
  simp [hb] at ha

/-- ADC.DONE_RESTART keeps the Sample (R87). -/
theorem adcNext_done {a : AdcRegs} (hs : a.state = .done) (v : Variant) (bit : Bool) :
    Tables.adcNext v true bit a =
      { state := .converting, phase := 0, sr := shiftIn a.sr bit, sample := a.sample, valid := false } := by
  simp only [Tables.adcNext, hs]
  rfl

/-- SEQ.ADVANCE in R207. -/
theorem seqNext_pix_of_advance {q : SeqRegs} (h0 : q.pix ≠ 0) (h128 : q.pix ≠ 128) (scan : Bool) (tau : Nat) :
    (Tables.seqNext scan true tau q).pix = q.pix + 1 := by
  rw [Tables.seqNext, if_neg h0, if_neg h128]
  rfl

/-- Settles O54: `convert` is still 1 in the cycle of `pix = 127`, so its DONE restarts the sampler as `pix` leaves
EXPOSING. -/
theorem stragglerStartsAtTheLastPixel : Obligations.StragglerStartsAtTheLastPixel := by
  intro s hi hr hb hpix hv
  have he : Exposing s := by simp [Exposing, hpix]
  have hdone := done_of_valid ((legal_iff s).1 hi.legal).1 hb hv
  have hw : wrEn s = true := (wrEn_eq_valid_of_exposing he).trans hv
  have haddr : wrAddr s = 126 := by rw [wrAddr, hpix]; rfl
  have hadc : (Tables.coreNext s).adc =
      { state := .converting, phase := 0, sr := shiftIn s.adc.sr s.inp.sdata, sample := s.adc.sample, valid := false } := by
    rw [Tables.coreNext, tick_adc, ← adcNext_done hdone s.cfg.adcVariant]
    exact congrArg (Tables.adcNext _ · _ _) (convert_eq_true he)
  have hseq : (Tables.coreNext s).seq.pix = 128 := by
    rw [Tables.coreNext, tick_seq, hv, seqNext_pix_of_advance (by simp [hpix]) (by simp [hpix]), hpix]
    rfl
  have hmem : (Tables.coreNext s).mem = memAfterWrite s := by rw [Tables.coreNext, tick_mem, memNext_of_wrEn hw]
  refine ⟨_, step_eq_coreNext hi hr (cfgTau_of_exposing he), hseq, convert_eq_false (not_exposing_of_128 hseq),
    by rw [hadc], by rw [hadc], by rw [hadc], ?_⟩
  rw [hmem, ← haddr]
  exact readWord_memAfterWrite hi.mem_wf

/-! ## The length of END_OF_LINE (R110, R105) -/

/-- The first cycle of END_OF_LINE, with `tau` legal and held for as long, and no reset. -/
structure EndOfLineBegins (s : State) : Prop where
  inv : Inv s
  pix : s.seq.pix = 128
  tauCnt : s.seq.tauCnt = 0
  tau : s.inp.tau ≠ 0
  rst : s.inp.rst = false
  length : s.inp.tau ≤ s.stim.length
  held : ∀ i ∈ s.stim, i.rst = false ∧ i.tau = s.inp.tau

/-- `t` is cycle `k` of the END_OF_LINE that begins in `s`. -/
structure InEndOfLine (s t : State) (k : Nat) : Prop where
  inv : Inv t
  pix : t.seq.pix = 128
  tauCnt : t.seq.tauCnt = k
  tau : t.inp.tau = s.inp.tau
  rst : t.inp.rst = false
  stim : t.stim = s.stim.drop k

/-- SEQ.EOL_TICK in R207. -/
theorem seqNext_of_tick {q : SeqRegs} {tau : Nat} (h : q.pix = 128) (hlt : q.tauCnt + 1 < tau) (scan valid : Bool) :
    Tables.seqNext scan valid tau q = { pix := 128, tauCnt := q.tauCnt + 1, trigLatch := false } := by
  simp [Tables.seqNext, h, hlt]

/-- SEQ.EOL_EXIT in R207. -/
theorem seqNext_of_exit {q : SeqRegs} {tau : Nat} (h : q.pix = 128) (hle : tau ≤ q.tauCnt + 1) (scan valid : Bool) :
    Tables.seqNext scan valid tau q = { pix := 0, tauCnt := q.tauCnt + 1, trigLatch := false } := by
  simp [Tables.seqNext, h, Nat.not_lt.2 hle]

/-- The pins hand on a value of `tau` that fits them (R23). -/
theorem onPins_tau_of_lt {c : Config} {i : Inputs} (h : i.tau < 2 ^ c.tauW) : (onPins c i).tau = i.tau :=
  Nat.mod_eq_of_lt h

theorem EndOfLineBegins.inEndOfLine {s : State} (hs : EndOfLineBegins s) : InEndOfLine s s 0 :=
  ⟨hs.inv, hs.pix, hs.tauCnt, rfl, hs.rst, rfl⟩

namespace InEndOfLine
variable {s t : State} {k : Nat}

/-- In END_OF_LINE with a legal `tau` each step is one of the tables. -/
theorem step_eq (h : InEndOfLine s t k) (hs : EndOfLineBegins s) : step t = .next (Tables.coreNext t) :=
  step_eq_coreNext h.inv h.rst fun _ => by rw [h.tau]; exact hs.tau

/-- The ports of the next cycle hold `tau` and give no reset. -/
theorem ports_next (h : InEndOfLine s t k) (hs : EndOfLineBegins s) (hk : k < s.inp.tau) :
    (Tables.coreNext t).inp.tau = s.inp.tau ∧ (Tables.coreNext t).inp.rst = false := by
  have hlt : k < s.stim.length := Nat.lt_of_lt_of_le hk hs.length
  obtain ⟨hrst, htau⟩ := hs.held _ (List.getElem_mem hlt)
  have hinp : (Tables.coreNext t).inp = onPins t.cfg s.stim[k] :=
    tick_inp_cons _ (h.stim.trans (List.drop_eq_getElem_cons hlt))
  have hfit : s.stim[k].tau < 2 ^ t.cfg.tauW := by
    rw [htau, ← h.tau]
    exact h.inv.tau_fits
  exact ⟨by rw [hinp, onPins_tau_of_lt hfit, htau], by rw [hinp]; exact hrst⟩

/-- While `tau_cnt + 1` is below `tau`, the stay goes on (R104). -/
theorem succ (h : InEndOfLine s t k) (hs : EndOfLineBegins s) (hk : k + 1 < s.inp.tau) :
    InEndOfLine s (Tables.coreNext t) (k + 1) := by
  have hseq : (Tables.coreNext t).seq = { pix := 128, tauCnt := k + 1, trigLatch := false } := by
    rw [Tables.coreNext, tick_seq, seqNext_of_tick h.pix (by rw [h.tauCnt, h.tau]; exact hk), h.tauCnt]
  obtain ⟨htau, hrst⟩ := h.ports_next hs (by omega)
  exact {
    inv := inv_coreNext h.inv, pix := by rw [hseq], tauCnt := by rw [hseq], tau := htau, rst := hrst
    stim := by rw [Tables.coreNext, tick_stim, h.stim, List.tail_drop] }

/-- The cycle that reaches `tau` ends it (R105). -/
theorem exit (h : InEndOfLine s t k) (hk : k + 1 = s.inp.tau) :
    (Tables.coreNext t).seq = { pix := 0, tauCnt := s.inp.tau, trigLatch := false } := by
  rw [Tables.coreNext, tick_seq, seqNext_of_exit h.pix (by rw [h.tauCnt, h.tau, hk]), h.tauCnt, hk]

end InEndOfLine

/-- Before `tau` steps have passed the run is still in END_OF_LINE, and `tau_cnt` has counted them. -/
theorem run_inEndOfLine {s : State} (hs : EndOfLineBegins s) {k : Nat} (hk : k < s.inp.tau) :
    ∃ t, Host.Core.run Sys2Proof.core k s = .next t ∧ InEndOfLine s t k := by
  induction k with
  | zero => exact ⟨s, rfl, hs.inEndOfLine⟩
  | succ k ih =>
    obtain ⟨t, hrun, ht⟩ := ih (by omega)
    exact ⟨_, run_succ_of_step hrun (ht.step_eq hs), ht.succ hs hk⟩

/-- Settles O56: `tau - 1` ticks, by induction, and one exit. -/
theorem endOfLineLastsExactlyTauCycles : Obligations.EndOfLineLastsExactlyTauCycles := by
  intro s hinv hpix hcnt htau hrst hlen hheld
  have hs : EndOfLineBegins s := ⟨hinv, hpix, hcnt, htau, hrst, hlen, hheld⟩
  refine ⟨fun k hk => ?_, ?_⟩
  · obtain ⟨t, hrun, ht⟩ := run_inEndOfLine hs hk
    exact ⟨t, hrun, ht.pix, ht.tauCnt⟩
  · obtain ⟨k, hk⟩ := Nat.exists_eq_succ_of_ne_zero htau
    obtain ⟨t, hrun, ht⟩ := run_inEndOfLine hs (k := k) (by omega)
    have hseq := ht.exit hk.symm
    rw [hk]
    exact ⟨_, run_succ_of_step hrun (ht.step_eq hs), by rw [hseq], by rw [hseq, hk]⟩

end Sys2Proof.Machine
end

section
/-! The LineBuffer (43_line_buffer.md): the write side stores one word or nothing (R120, R121), and the read side shows one
byte and writes nothing (R122, R123). -/

namespace Sys2Proof.Machine

/-! ## The write side (R120, R121) -/

theorem exec_bufWrite {s : State} (hs : Ready s) (hw : wrEn s = true) :
    exec .bufWrite s = .next (s.setMem (memAfterWrite s)) := by
  have hsel : select s .wsel = .ok .bufWrite := by rw [select_wsel, if_pos hw]
  exact exec_of_selected (eff := fun s => s.setMem (memAfterWrite s)) rfl hs.1 hs.2 hsel

theorem exec_bufNowrite {s : State} (hs : Ready s) (hw : wrEn s = false) : exec .bufNowrite s = .next s := by
  have hsel : select s .wsel = .ok .bufNowrite := by rw [select_wsel, if_neg (ne_true_of_eq_false hw)]
  exact exec_of_selected (eff := fun s => s) rfl hs.1 hs.2 hsel

/-- Settles O16: both ways the port can be enabled leave `pix` in 1 to 128, so the word stored is `pix - 1`. -/
theorem bufWriteStoresOneWord : Obligations.BufWriteStoresOneWord := by
  intro s hs hv hway hm
  have hlo : 1 ≤ s.seq.pix.toNat := by
    obtain ⟨hlo, -⟩ | ⟨-, h128⟩ := hway
    · exact hlo
    · simp [h128]
  have hhi : s.seq.pix.toNat ≤ 128 := ((seqLegal_iff _).1 ((legal_iff s).1 hs.2).2.1).1
  exact ⟨_, exec_bufWrite hs ((wrEn_iff_exposing s).2 ⟨hv, hway⟩), rfl, readWord_memAfterWrite hm, toNat_wrAddr hlo hhi,
    fun _ => readByte_memAfterWrite_of_ne hm⟩

/-! ## The read side (R122, R123) -/

theorem exec_bufReadHi {s : State} (hs : Ready s) (hb : s.dmp.byteIdx = 0) : exec .bufReadHi s = .next s := by
  have hsel : select s .rsel = .ok .bufReadHi := by rw [select_rsel, if_pos hb]
  exact exec_of_selected (eff := fun s => s) rfl hs.1 hs.2 hsel

theorem exec_bufReadLo {s : State} (hs : Ready s) (hb : s.dmp.byteIdx ≠ 0) : exec .bufReadLo s = .next s := by
  have hsel : select s .rsel = .ok .bufReadLo := by rw [select_rsel, if_neg hb]
  exact exec_of_selected (eff := fun s => s) rfl hs.1 hs.2 hsel

theorem rdByte_of_zero {s : State} (hb : s.dmp.byteIdx = 0) : rdByte s = hiByte (rdData s) := if_pos hb

theorem rdByte_of_ne_zero {s : State} (hb : s.dmp.byteIdx ≠ 0) : rdByte s = loByte (rdData s) := if_neg hb

/-- Settles O17: each operation by its selector bit; the byte shown is the high or the low one of the word at the cursor. -/
theorem bufIdleWriteAndReadsChangeNothing : Obligations.BufIdleWriteAndReadsChangeNothing := by
  intro s hs
  refine ⟨exec_bufNowrite hs, fun hb => ?_, fun hb => ?_⟩
  · have hbyte := rdByte_of_zero hb
    refine ⟨exec_bufReadHi hs hb, rfl, hbyte, ?_⟩
    rw [hbyte]
    exact Nat.le_of_lt_succ (hiByte_lt _)
  · have hne : s.dmp.byteIdx ≠ 0 := by rw [hb]; decide
    exact ⟨exec_bufReadLo hs hne, rfl, rdByte_of_ne_zero hne⟩

end Sys2Proof.Machine
end

section
/-! The FrameDumper (44_frame_dumper.md): what each operation answers (R130 to R139), the transfer and the held byte (R142,
R144), and one whole dump with the sink ready (R143, R146). -/

namespace Sys2Proof.Machine

/-! ## The selectors of the operations (R130 to R139, R208) -/

/-- The dumper's operations of the table are those of its selector (R71). -/
theorem format_dmpOp (dump ready : Bool) (d : DmpRegs) : (Tables.dmpOp dump ready d).format = .dsel := by
  unfold Tables.dmpOp
  cases d.state with
  | idle => cases dump <;> rfl
  | sync | done => rfl
  | send => dsimp only; split_ifs <;> rfl
  | wait => dsimp only; split_ifs <;> rfl

/-- A ready state performs the operation of the table; `h` names its arm of `exec`. -/
theorem exec_of_dmpOp {op : Instr} {s : State} {eff : State → State} (h : exec op s = perform op s eff) (hs : Ready s)
    (hop : Tables.dmpOp s.inp.dumpTrigger s.inp.sinkReady s.dmp = op) : exec op s = .next (eff s) := by
  have hf : op.format = .dsel := hop ▸ format_dmpOp _ _ _
  refine exec_of_selected h hs.1 hs.2 ?_
  rw [hf, select_dsel_eq_table, hop]

/-- Outside WAIT and DONE nothing is offered and `done` is 0 (R22). -/
theorem outputs_quiet {s : State} (hw : s.dmp.state ≠ .wait) (hd : s.dmp.state ≠ .done) :
    (outputs s).sinkValid = false ∧ (outputs s).done = false := by
  simp [outputs_eq, hw, hd]

/-- In WAIT the byte of `tx_data` is offered and `done` is 0 (R22, R140). -/
theorem outputs_of_wait {s : State} (hw : s.dmp.state = .wait) :
    (outputs s).sinkValid = true ∧ (outputs s).sinkData = s.dmp.txData ∧ (outputs s).done = false := by
  simp [outputs_eq, hw]

/-- R142: the byte transferred, by the state and the sink. -/
theorem transfer_eq (s : State) :
    transfer s = if s.dmp.state = .wait ∧ s.inp.sinkReady = true then some s.dmp.txData else none := by
  simp [transfer, sinkValid]

/-! ## What the operations answer (R130 to R139) -/

/-- Settles O20: without a trigger the idle row is DMP.IDLE. -/
theorem dmpIdleHoldsEverything : Obligations.DmpIdleHoldsEverything := by
  intro s hs hi ht
  have hop : Tables.dmpOp s.inp.dumpTrigger s.inp.sinkReady s.dmp = .dmpIdle := by simp [Tables.dmpOp, hi, ht]
  exact ⟨exec_of_dmpOp (eff := fun s => s) rfl hs hop, outputs_quiet (by simp [hi]) (by simp [hi])⟩

/-- Settles O21: with a trigger the idle row is DMP.TRIGGER. -/
theorem dmpTriggerStartsADump : Obligations.DmpTriggerStartsADump := by
  intro s hs hi ht
  have hop : Tables.dmpOp s.inp.dumpTrigger s.inp.sinkReady s.dmp = .dmpTrigger := by simp [Tables.dmpOp, hi, ht]
  exact ⟨exec_of_dmpOp
    (eff := fun s => s.setDmp { s.dmp with state := .sync, wordIdx := 0, byteIdx := 0, lastByteSent := false }) rfl hs hop,
    outputs_quiet (by simp [hi]) (by simp [hi])⟩

/-- Settles O22: SYNC has one row, and the WAIT it goes to offers the byte it loads. -/
theorem dmpSyncLoadsTheSyncByte : Obligations.DmpSyncLoadsTheSyncByte := by
  intro s hs hst
  have hop : Tables.dmpOp s.inp.dumpTrigger s.inp.sinkReady s.dmp = .dmpSync := by simp [Tables.dmpOp, hst]
  obtain ⟨hvalid, hdone⟩ := outputs_quiet (s := s) (by simp [hst]) (by simp [hst])
  exact ⟨_, exec_of_dmpOp rfl hs hop, rfl, hvalid, hdone, rfl, rfl⟩

/-- Settles O23: in SEND the clear `byte_idx` chooses DMP.SEND_HI. -/
theorem dmpSendHiLoadsTheHighByte : Obligations.DmpSendHiLoadsTheHighByte := by
  intro s hs hst hb
  have hop : Tables.dmpOp s.inp.dumpTrigger s.inp.sinkReady s.dmp = .dmpSendHi := by simp [Tables.dmpOp, hst, hb]
  exact ⟨exec_of_dmpOp rfl hs hop, outputs_quiet (by simp [hst]) (by simp [hst])⟩

/-- Before word 127 the cursor moves without wrap (R134, R201). -/
theorem toNat_wordIdx_add_one {w : WordAddr} (h : w ≠ 127) : (w + 1).toNat = w.toNat + 1 := by
  bv_omega

/-- Settles O24: in SEND at a low byte before word 127 the row is DMP.SEND_LO. -/
theorem dmpSendLoLoadsTheLowByte : Obligations.DmpSendLoLoadsTheLowByte := by
  intro s hs hst hb hw
  have hop : Tables.dmpOp s.inp.dumpTrigger s.inp.sinkReady s.dmp = .dmpSendLo := by
    simp only [Tables.dmpOp, hst, hb, if_neg hw]
    rfl
  exact ⟨_, exec_of_dmpOp rfl hs hop, rfl, toNat_wordIdx_add_one hw, outputs_quiet (by simp [hst]) (by simp [hst])⟩

/-- Settles O25: in SEND at the low byte of word 127 the row is DMP.SEND_LAST, whose increment wraps to 0. -/
theorem dmpSendLastSetsTheLatch : Obligations.DmpSendLastSetsTheLatch := by
  intro s hs hst hb hw
  have hop : Tables.dmpOp s.inp.dumpTrigger s.inp.sinkReady s.dmp = .dmpSendLast := by simp [Tables.dmpOp, hst, hb, hw]
  have hexec : exec .dmpSendLast s = .next (dmpLoad (loByte (rdData s)) (s.dmp.wordIdx + 1) 0 true s) :=
    exec_of_dmpOp rfl hs hop
  rw [rdData, rdAddr, hw] at hexec
  exact ⟨hexec, outputs_quiet (by simp [hst]) (by simp [hst])⟩

/-- Settles O26: in WAIT a sink that is not ready chooses DMP.WAIT_HOLD, and takes nothing. -/
theorem dmpWaitHoldOffersTheSameByte : Obligations.DmpWaitHoldOffersTheSameByte := by
  intro s hs hst hr
  have hop : Tables.dmpOp s.inp.dumpTrigger s.inp.sinkReady s.dmp = .dmpWaitHold := by simp [Tables.dmpOp, hst, hr]
  obtain ⟨hvalid, hdata, hdone⟩ := outputs_of_wait hst
  exact ⟨exec_of_dmpOp (eff := fun s => s) rfl hs hop, hvalid, hdata, hdone, by simp [transfer_eq, hr]⟩

/-- Settles O27: in WAIT with a ready sink the latch chooses between DMP.ACCEPT_NEXT and DMP.ACCEPT_LAST. -/
theorem dmpAcceptTransfersTheByte : Obligations.DmpAcceptTransfersTheByte := by
  intro s hs hst hr
  obtain ⟨hvalid, hdata, hdone⟩ := outputs_of_wait hst
  refine ⟨fun hlast => ?_, fun hlast => ?_, hvalid, hdata, hdone, by simp [transfer_eq, hst, hr]⟩
  · have hop : Tables.dmpOp s.inp.dumpTrigger s.inp.sinkReady s.dmp = .dmpAcceptNext := by
      simp [Tables.dmpOp, hst, hr, hlast]
    exact exec_of_dmpOp rfl hs hop
  · have hop : Tables.dmpOp s.inp.dumpTrigger s.inp.sinkReady s.dmp = .dmpAcceptLast := by
      simp [Tables.dmpOp, hst, hr, hlast]
    exact exec_of_dmpOp rfl hs hop

/-- Settles O28: DONE has one row, and the IDLE it goes to shows no pulse. -/
theorem dmpDonePulsesOnce : Obligations.DmpDonePulsesOnce := by
  intro s hs hst
  have hop : Tables.dmpOp s.inp.dumpTrigger s.inp.sinkReady s.dmp = .dmpDone := by simp [Tables.dmpOp, hst]
  exact ⟨_, exec_of_dmpOp rfl hs hop, rfl, by simp [outputs_eq, hst], by simp [outputs_eq, hst], rfl⟩

/-! ## The rows of R208 -/

/-- DMP.WAIT_HOLD in R208. -/
theorem dmpNext_of_hold {d : DmpRegs} (h : d.state = .wait) (sync : Byte) (dump : Bool) (word : Sample) :
    Tables.dmpNext sync dump false word d = d := by
  simp [Tables.dmpNext, h]

/-- DMP.ACCEPT_NEXT and DMP.ACCEPT_LAST in R208. -/
theorem dmpNext_of_accept {d : DmpRegs} (h : d.state = .wait) (sync : Byte) (dump : Bool) (word : Sample) :
    Tables.dmpNext sync dump true word d = { d with state := if d.lastByteSent = true then .done else .send } := by
  cases hl : d.lastByteSent <;> simp [Tables.dmpNext, h, hl]

/-- DMP.TRIGGER and then DMP.SYNC in R208: the cursor and the latch are cleared and the sync byte is loaded. -/
theorem dmpNext_dmpNext_of_trigger {d : DmpRegs} (h : d.state = .idle) (sync : Byte) (dump ready ready' : Bool)
    (word word' : Sample) :
    Tables.dmpNext sync dump ready' word' (Tables.dmpNext sync true ready word d) =
      { state := .wait, wordIdx := 0, byteIdx := 0, lastByteSent := false, txData := sync } := by
  simp only [Tables.dmpNext, h, if_true]

/-- DMP.SEND_HI in R208. -/
theorem dmpNext_of_sendHi {d : DmpRegs} (h : d.state = .send) (hb : d.byteIdx = 0) (sync : Byte) (dump ready : Bool)
    (word : Sample) :
    Tables.dmpNext sync dump ready word d = { d with state := .wait, byteIdx := 1, txData := hiByte word } := by
  simp only [Tables.dmpNext, h, if_pos hb]
  rfl

/-- DMP.SEND_LO and DMP.SEND_LAST in R208: the latch is set at word 127, where the increment wraps (R201). -/
theorem dmpNext_of_sendLo {d : DmpRegs} (h : d.state = .send) (hb : d.byteIdx = 1) (sync : Byte) (dump ready : Bool)
    (word : Sample) :
    Tables.dmpNext sync dump ready word d =
      { state := .wait, wordIdx := d.wordIdx + 1, byteIdx := 0,
        lastByteSent := decide (d.wordIdx = 127) || d.lastByteSent, txData := loByte word } := by
  have hne : d.byteIdx ≠ 0 := by rw [hb]; decide
  simp only [Tables.dmpNext, h, if_neg hne]
  by_cases hw : d.wordIdx = 127
  · rw [if_pos hw, hw]
    rfl
  · rw [if_neg hw, decide_eq_false hw, Bool.false_or]
    rfl

/-- DMP.DONE in R208. -/
theorem dmpNext_of_done {d : DmpRegs} (h : d.state = .done) (sync : Byte) (dump ready : Bool) (word : Sample) :
    Tables.dmpNext sync dump ready word d = { d with state := .idle } := by
  simp only [Tables.dmpNext, h]

/-! ## The byte held (R142) -/

/-- Settles O50: the transfer is read off the state and the sink, in WAIT a ready sink selects an ACCEPT operation, and
DMP.WAIT_HOLD keeps the dumper's registers. -/
theorem offeredByteIsHeldUntilTransferred : Obligations.OfferedByteIsHeldUntilTransferred := by
  intro s
  refine ⟨fun b => ?_, fun h => ?_, fun _ => rfl, fun t hr ht hvalid hready => ?_⟩
  · rw [transfer_eq, outputs_eq, eq_comm (a := b)]
    simp [and_assoc]
  · obtain ⟨hwait, hready⟩ : s.dmp.state = .wait ∧ s.inp.sinkReady = true := by simpa [transfer_eq] using h
    cases hl : s.dmp.lastByteSent <;> simp [select_dsel, hwait, hready, hl]
  · have hwait : s.dmp.state = .wait := by simpa [outputs_eq] using hvalid
    obtain ⟨-, -, hdmp, -⟩ := registers_of_step hr ht
    rw [hready, dmpNext_of_hold hwait] at hdmp
    simp [outputs_eq, hdmp, hwait]

/-! ## The cycles of a run from the invariant, by number -/

/-- `t` is the state `k` steps after `s`, and the stimulus of `s` has been consumed up to there. -/
structure AtCycle (s t : State) (k : Nat) : Prop where
  run : Host.Core.run Sys2Proof.core k s = .next t
  inv : Inv t
  cfg : t.cfg = s.cfg
  stim : t.stim = s.stim.drop k

theorem atCycle_zero {s : State} (h : Inv s) : AtCycle s s 0 := ⟨rfl, h, rfl, rfl⟩

/-- A cycle that is neither reset nor refused goes on as the tables say. -/
theorem AtCycle.succ {s t : State} {k : Nat} (h : AtCycle s t k) (hr : t.inp.rst = false) (ht : CfgTau t) :
    AtCycle s (Tables.coreNext t) (k + 1) where
  run := run_succ_of_step h.run (step_eq_coreNext h.inv hr ht)
  inv := inv_coreNext h.inv
  cfg := (tick_cfg _).trans h.cfg
  stim := by rw [Tables.coreNext, tick_stim, h.stim, List.tail_drop]

/-- The ports after cycle `k` take line `k` of the stimulus. -/
theorem AtCycle.inp_next {s t : State} {k : Nat} (h : AtCycle s t k) (hk : k < s.stim.length) :
    ∃ i ∈ s.stim, (Tables.coreNext t).inp = onPins s.cfg i := by
  refine ⟨s.stim[k], List.getElem_mem hk, ?_⟩
  rw [← h.cfg]
  exact tick_inp_cons _ (h.stim.trans (List.drop_eq_getElem_cons hk))

/-! ## A sink that is never ready (R144) -/

/-- Cycle `k` of a stay in WAIT that began in `s`: the dumper's registers are those of `s`. -/
structure StalledCycle (s t : State) (k : Nat) : Prop extends AtCycle s t k where
  dmp : t.dmp = s.dmp
  rst : t.inp.rst = false
  sinkReady : t.inp.sinkReady = false
  tau : t.inp.tau ≠ 0

theorem StalledCycle.succ {s t : State} {k : Nat} (h : StalledCycle s t k) (hw : s.dmp.state = .wait)
    (hk : k < s.stim.length) (hstim : ∀ i ∈ s.stim, i.rst = false ∧ i.sinkReady = false ∧ fitTau s.cfg i.tau ≠ 0) :
    StalledCycle s (Tables.coreNext t) (k + 1) := by
  obtain ⟨i, hmem, hinp⟩ := h.inp_next hk
  obtain ⟨hrst, hready, htau⟩ := hstim i hmem
  exact {
    toAtCycle := h.toAtCycle.succ h.rst fun _ => h.tau
    dmp := by rw [Tables.coreNext, tick_dmp, h.sinkReady, dmpNext_of_hold (h.dmp ▸ hw), h.dmp]
    rst := by rw [hinp]; exact hrst
    sinkReady := by rw [hinp]; exact hready
    tau := by rw [hinp]; exact htau }

/-- Settles O58: by induction on the number of cycles, each of them DMP.WAIT_HOLD. -/
theorem deadSinkHoldsTheDumperForever : Obligations.DeadSinkHoldsTheDumperForever := by
  intro s k hinv hw hready hrst htau hlen hstim
  have hrun : ∃ t, StalledCycle s t k := by
    induction k with
    | zero => exact ⟨s, atCycle_zero hinv, rfl, hrst, hready, htau⟩
    | succ k ih =>
      obtain ⟨t, ht⟩ := ih (by omega)
      exact ⟨_, ht.succ hw (by omega) hstim⟩
  obtain ⟨t, ht⟩ := hrun
  obtain ⟨hvalid, hdata, hdone⟩ := outputs_of_wait (s := t) (by rw [ht.dmp, hw])
  exact ⟨t, ht.run, ht.dmp, hvalid, by rw [hdata, ht.dmp], hdone⟩

/-! ## The bytes of the frame, by position (R62, R146) -/

/-- The byte of a word at an even or an odd place of the serialisation (R63). -/
def byteAt (n : Nat) (w : Sample) : Byte := if n % 2 = 0 then hiByte w else loByte w

theorem getElem?_serialise (ws : List Sample) (n : Nat) : (serialise ws)[n]? = ws[n / 2]?.map (byteAt n) := by
  induction ws generalizing n with
  | nil => rfl
  | cons w ws ih =>
    rw [serialise_cons]
    match n with
    | 0 | 1 => rfl
    | n + 2 =>
      have hbyte : byteAt (n + 2) = byteAt n := by funext w; simp [byteAt]
      rw [List.getElem?_cons_succ, List.getElem?_cons_succ, ih, hbyte, Nat.add_div_right n (by decide),
        List.getElem?_cons_succ]

theorem getElem?_lineOf (m : Memory) {i : Nat} (hi : i < 128) : (lineOf m)[i]? = some (readWord m (BitVec.ofNat 7 i)) := by
  simp [lineOf, Config.nPix, hi]

/-- The byte at a position of the frame of a LineBuffer: the sync byte, then the bytes of its words in order. -/
def frameByte (c : Config) (m : Memory) : Nat → Byte
  | 0 => c.syncByte
  | n + 1 => byteAt n (readWord m (BitVec.ofNat 7 (n / 2)))

theorem getElem?_frameOf (c : Config) (m : Memory) {n : Nat} (hn : n ≤ 256) :
    (frameOf c (lineOf m))[n]? = some (frameByte c m n) := by
  cases n with
  | zero => rfl
  | succ n =>
    rw [frameOf, List.getElem?_cons_succ, getElem?_serialise, getElem?_lineOf m (Nat.div_lt_of_lt_mul (by omega))]
    rfl

/-- The high byte of word `w` stands at position `2w + 1`, its low byte at the next (R62, R63). -/
theorem frameByte_hi (c : Config) (m : Memory) (w : Nat) :
    frameByte c m (2 * w + 1) = hiByte (readWord m (BitVec.ofNat 7 w)) := by
  simp [frameByte, byteAt]

theorem frameByte_lo (c : Config) (m : Memory) (w : Nat) :
    frameByte c m (2 * w + 1 + 1) = loByte (readWord m (BitVec.ofNat 7 w)) := by
  have hhalf : (2 * w + 1) / 2 = w := by omega
  simp [frameByte, byteAt, hhalf]

/-! ## The dumper's registers, by position (R143, R146) -/

/-- The registers while position `n` is offered: the cursor has moved on to the byte after it, and the latch is set at the
last position (R132 to R135). -/
def offering (c : Config) (m : Memory) (n : Nat) : DmpRegs :=
  { state := .wait, wordIdx := BitVec.ofNat 7 (n / 2), byteIdx := BitVec.ofNat 1 n, lastByteSent := decide (n = 256),
    txData := frameByte c m n }

theorem offering_zero (c : Config) (m : Memory) : offering c m 0 =
    { state := .wait, wordIdx := 0, byteIdx := 0, lastByteSent := false, txData := c.syncByte } := rfl

/-- At an even position the cursor is at the high byte of a word. -/
theorem offering_even (c : Config) (m : Memory) (w : Nat) : offering c m (2 * w) =
    { state := .wait, wordIdx := BitVec.ofNat 7 w, byteIdx := 0, lastByteSent := decide (w = 128),
      txData := frameByte c m (2 * w) } := by
  have hbit : BitVec.ofNat 1 (2 * w) = 0 := by
    apply BitVec.eq_of_toNat_eq
    simp
  have hlast : 2 * w = 256 ↔ w = 128 := by omega
  rw [offering, Nat.mul_div_cancel_left w (by decide), hbit, decide_eq_decide.2 hlast]

/-- At an odd position, a high byte, the cursor is at the low byte of the same word. -/
theorem offering_odd (c : Config) (m : Memory) (w : Nat) : offering c m (2 * w + 1) =
    { state := .wait, wordIdx := BitVec.ofNat 7 w, byteIdx := 1, lastByteSent := false,
      txData := frameByte c m (2 * w + 1) } := by
  have hhalf : (2 * w + 1) / 2 = w := by omega
  have hbit : BitVec.ofNat 1 (2 * w + 1) = 1 := by
    apply BitVec.eq_of_toNat_eq
    simp
  have hlast : 2 * w + 1 ≠ 256 := by omega
  rw [offering, hhalf, hbit, decide_eq_false hlast]

/-- The SEND after position `n` loads the byte of position `n + 1` (R133 to R135). -/
theorem dmpNext_send_offering (c : Config) (m : Memory) {n : Nat} (hn : n < 256) (dump ready : Bool) :
    Tables.dmpNext c.syncByte dump ready (readWord m (offering c m n).wordIdx) { offering c m n with state := .send } =
      offering c m (n + 1) := by
  obtain ⟨w, rfl | rfl⟩ := Nat.even_or_odd' n
  · have hlast : w ≠ 128 := by omega
    rw [offering_even, offering_odd, dmpNext_of_sendHi rfl rfl, frameByte_hi, decide_eq_false hlast]
  · have hnext : offering c m (2 * w + 1 + 1) = offering c m (2 * (w + 1)) := rfl
    have hlow : frameByte c m (2 * (w + 1)) = loByte (readWord m (BitVec.ofNat 7 w)) := frameByte_lo c m w
    have hlast : BitVec.ofNat 7 w = 127 ↔ w + 1 = 128 := by
      rw [← BitVec.toNat_inj, BitVec.toNat_ofNat, Nat.mod_eq_of_lt (by omega)]
      exact Nat.succ_inj.symm
    have hword : BitVec.ofNat 7 (w + 1) = BitVec.ofNat 7 w + 1 := BitVec.ofNat_add w 1
    rw [offering_odd, hnext, offering_even, dmpNext_of_sendLo rfl rfl, hlow, hword]
    simp only [hlast, Bool.or_false]

/-! ## One dump with the sink ready (R143, R146) -/

/-- Where a dump begins with the sink ready and no scan: 516 cycles of such input, and no reset. -/
structure DumpBegins (s : State) : Prop where
  inv : Inv s
  idle : s.dmp.state = .idle
  pix : s.seq.pix = 0
  rst : s.inp.rst = false
  scan : s.inp.scanTrigger = false
  dump : s.inp.dumpTrigger = true
  ready : s.inp.sinkReady = true
  length : 516 ≤ s.stim.length
  held : ∀ i ∈ s.stim, i.rst = false ∧ i.scanTrigger = false ∧ i.sinkReady = true

/-- Cycle `k` after `s`, with the sink ready and no scan since: the LineBuffer is that of `s`. -/
structure DumpCycle (s t : State) (k : Nat) : Prop extends AtCycle s t k where
  pix : t.seq.pix = 0
  mem : t.mem = s.mem
  rst : t.inp.rst = false
  scan : t.inp.scanTrigger = false
  ready : t.inp.sinkReady = true

theorem DumpBegins.dumpCycle {s : State} (hs : DumpBegins s) : DumpCycle s s 0 :=
  ⟨atCycle_zero hs.inv, hs.pix, rfl, hs.rst, hs.scan, hs.ready⟩

/-- SEQ.IDLE holds `pix` (R100). -/
theorem seqNext_pix_of_idle {q : SeqRegs} (h : q.pix = 0) (valid : Bool) (tau : Nat) :
    (Tables.seqNext false valid tau q).pix = 0 := by
  rw [Tables.seqNext, if_pos h]
  exact h

/-- At `pix = 0` the write port is not enabled (R108). -/
theorem memNext_of_zero {q : SeqRegs} (h : q.pix = 0) (eolWrite : Bool) (a : AdcRegs) (m : Memory) :
    Tables.memNext eolWrite a q m = m := by
  simp [Tables.memNext, h]

namespace DumpCycle
variable {s t : State} {k : Nat}

/-- The next cycle: no scan begins, no word is written, and the sink is ready still. -/
theorem succ (h : DumpCycle s t k) (hs : DumpBegins s) (hk : k < 516) : DumpCycle s (Tables.coreNext t) (k + 1) := by
  obtain ⟨i, hmem, hinp⟩ := h.inp_next (Nat.lt_of_lt_of_le hk hs.length)
  obtain ⟨hrst, hscan, hready⟩ := hs.held i hmem
  exact {
    toAtCycle := h.toAtCycle.succ h.rst (cfgTau_of_ne (by simp [h.pix]))
    pix := by rw [Tables.coreNext, tick_seq, h.scan, seqNext_pix_of_idle h.pix]
    mem := by rw [Tables.coreNext, tick_mem, memNext_of_zero h.pix, h.mem]
    rst := by rw [hinp]; exact hrst
    scan := by rw [hinp]; exact hscan
    ready := by rw [hinp]; exact hready }

/-- The dumper's registers in the next cycle, the parameters, the LineBuffer and the sink being as they were (R208). -/
theorem dmp_next (h : DumpCycle s t k) : (Tables.coreNext t).dmp =
    Tables.dmpNext s.cfg.syncByte t.inp.dumpTrigger true (readWord s.mem t.dmp.wordIdx) t.dmp := by
  rw [Tables.coreNext, tick_dmp, h.cfg, h.mem, h.ready]

/-- A byte offered is transferred in the same cycle, and the dumper goes on by the latch (R137, R138). -/
theorem accept (h : DumpCycle s t k) {n : Nat} (ht : t.dmp = offering s.cfg s.mem n) :
    transfer t = some (frameByte s.cfg s.mem n) ∧
    (Tables.coreNext t).dmp = { offering s.cfg s.mem n with state := if n = 256 then .done else .send } := by
  have hwait : t.dmp.state = .wait := by rw [ht]; rfl
  refine ⟨by rw [transfer_eq, if_pos ⟨hwait, h.ready⟩, ht]; rfl, ?_⟩
  rw [h.dmp_next, dmpNext_of_accept hwait, ht]
  simp [offering]

end DumpCycle

/-- Position `n` is offered in cycle `2 + 2n` (R143). -/
theorem run_offering {s : State} (hs : DumpBegins s) {n : Nat} (hn : n ≤ 256) :
    ∃ t, DumpCycle s t (2 + 2 * n) ∧ t.dmp = offering s.cfg s.mem n := by
  induction n with
  | zero =>
    have h1 := hs.dumpCycle.succ hs (by decide)
    refine ⟨_, h1.succ hs (by decide), ?_⟩
    rw [h1.dmp_next, hs.dumpCycle.dmp_next, hs.dump, dmpNext_dmpNext_of_trigger hs.idle, offering_zero]
  | succ n ih =>
    obtain ⟨t, ht, hdmp⟩ := ih (by omega)
    have h1 := ht.succ hs (by omega)
    obtain ⟨-, hsend⟩ := ht.accept hdmp
    rw [if_neg (by omega)] at hsend
    refine ⟨_, h1.succ hs (by omega), ?_⟩
    rw [h1.dmp_next, hsend, dmpNext_send_offering _ _ hn]

/-- Settles O57: every second cycle offers the next position of the frame and transfers it; the last one goes to DONE, and
DONE to IDLE. -/
theorem dumpSendsTheWholeFrame : Obligations.DumpSendsTheWholeFrame := by
  intro s hinv hidle hpix hrst hscan hdump hready hlen hheld
  have hs : DumpBegins s := ⟨hinv, hidle, hpix, hrst, hscan, hdump, hready, hlen, hheld⟩
  refine ⟨fun n hn => ?_, ?_⟩
  · obtain ⟨t, ht, hdmp⟩ := run_offering hs hn
    obtain ⟨hbyte, -⟩ := ht.accept hdmp
    exact ⟨t, ht.run, by rw [hbyte, getElem?_frameOf _ _ hn]⟩
  · obtain ⟨t, ht, hdmp⟩ := run_offering hs (Nat.le_refl 256)
    obtain ⟨-, hdone⟩ := ht.accept hdmp
    have h515 := ht.succ hs (by decide)
    have h516 := h515.succ hs (by decide)
    have hend := h515.dmp_next
    rw [dmpNext_of_done (by rw [hdone]; rfl)] at hend
    exact ⟨⟨_, h515.run, by simp [outputs_eq, hdone], h515.mem⟩, _, h516.run, by simp [outputs_eq, hend], by rw [hend]⟩

end Sys2Proof.Machine
end

section
/-! The transition tables (45_arithmetic_and_transitions.md): the machine's step is the tables' step (R206 to R208), and the
scan side of it reads nothing of the dumper (R209). -/

namespace Sys2Proof.Machine

/-! ## The machine and the tables -/

/-- Settles O39: each selector word decodes to the operation of its table's row, which writes what the row says; `Inv` makes
the increment of `tau_cnt` fit, so that the tables need not cut it (R201). -/
theorem stepRefinesTheTransitionTables : Obligations.StepRefinesTheTransitionTables := by
  intro s hi hr ht
  exact ⟨fetch_eq_coreOps hi.legal ht, step_eq_coreNext hi hr ht⟩

/-! ## The scan side does not read the dumper -/

/-- What a sequencer's operation writes to its own registers is a function of those registers and of the width of `tau_cnt`
(R158). -/
theorem seq_eq_of_exec_qsel {op : Instr} {s s' t t' : State} (hf : op.format = .qsel) (hseq : s.seq = s'.seq)
    (hcfg : s.cfg = s'.cfg) (h : exec op s = .next t) (h' : exec op s' = .next t') : t.seq = t'.seq := by
  cases op with
  | seqIdle | seqTrigger | seqExposeWait | seqEolTick | seqEolExit =>
    obtain rfl := eq_of_exec (eff := seqMove _ _ _) rfl h
    obtain rfl := eq_of_exec (eff := seqMove _ _ _) rfl h'
    simp only [seqMove_seq, tauBumped, hseq, hcfg]
  | seqAdvance =>
    obtain rfl := eq_of_exec (exec_seqAdvance_eq _) h
    obtain rfl := eq_of_exec (exec_seqAdvance_eq _) h'
    simp only [seqAdvanceEdge, State.setMem_seq, seqMove_seq, hseq]
  | _ => cases hf

/-- Settles O49: the sampler's and the write port's tables and the choice of the sequencer's operation have no argument of the
dumper's, and that operation reads its own registers only. -/
theorem dumpNeverDisturbsAScan : Obligations.DumpNeverDisturbsAScan := by
  intro s s' t t' hr hr' hadc hseq hmem hcfg hscan htau hsdata h h'
  obtain ⟨hta, htm, -, sq, hsq, htq⟩ := registers_of_step hr h
  obtain ⟨hta', htm', -, sq', hsq', htq'⟩ := registers_of_step hr' h'
  have hconv : convert s = convert s' := by rw [convert, convert, hseq]
  refine ⟨?_, ?_, ?_⟩
  · rw [hta, hta', hcfg, hconv, hsdata, hadc]
  · rw [hscan, hadc, htau, hseq] at hsq
    rw [htq, htq']
    exact seq_eq_of_exec_qsel (format_seqOp _ _ _ _) hseq hcfg hsq hsq'
  · rw [htm, htm', hcfg, hadc, hseq, hmem]

end Sys2Proof.Machine
end

section
/-! The exceptions the core does not have (60_exceptions.md): it always steps (R150, R165) but in the one configuration the
spec refuses (U1, R151), an operation changes only what its engine owns (R158), and a quiescent core only shifts (R165). -/

namespace Sys2Proof.Machine

/-! ## The refused configuration (U1, R151) -/

theorem tauRefused_of_zero {s : State} (hpix : s.seq.pix = 128) (htau : s.inp.tau = 0) : tauRefused s = true := by
  simp [tauRefused, hpix, htau]

/-- A ready state refuses an operation by the name with which its selection fails. -/
theorem perform_of_select_error {op : Instr} {s : State} {r : Refusal} (eff : State → State) (hs : Ready s)
    (hsel : select s op.format = .error r) : perform op s eff = .refused r := by
  obtain ⟨hr, hl⟩ := hs
  simp [perform, guarded, selected, hr, hl, hsel]

/-- The sampler's selection stands before the sequencer's and succeeds, so the cycle is refused by the sequencer's. -/
theorem fetch_of_tauRefused {s : State} (hl : legal s = true) (ht : tauRefused s = true) : fetch s = .error .tauZero := by
  simp [fetch, hl, select_asel_eq_table hl, select_qsel_refused s ht, bind, Except.bind]

theorem step_of_fetch_error {s : State} {r : Refusal} (hr : s.inp.rst = false) (hf : fetch s = .error r) :
    step s = .refused r := by
  simp [step, hr, hf]

/-- Settles O15: the sequencer's selection fails, and with it both its operations at `pix = 128` and the cycle. -/
theorem zeroTauAtEndOfLineIsRefused : Obligations.ZeroTauAtEndOfLineIsRefused := by
  intro s hs hpix htau
  have hu := tauRefused_of_zero hpix htau
  have hsel := select_qsel_refused s hu
  exact ⟨perform_of_select_error (seqMove s.seq.pix (tauBumped s) false) hs hsel,
    perform_of_select_error (seqMove 0 (tauBumped s) false) hs hsel,
    step_of_fetch_error hs.1 (fetch_of_tauRefused hs.2 hu)⟩

/-! ## Progress (R150, R165) -/

/-- Settles O37: a reset cycle steps from every state; without reset a state of `Inv` is ready. -/
theorem coreNeverHaltsWhileTauIsLegal : Obligations.CoreNeverHaltsWhileTauIsLegal := by
  intro s hi hcase
  cases hr : s.inp.rst with
  | true => exact ⟨_, step_of_reset hr⟩
  | false =>
    have ht : CfgTau s := hcase.resolve_left (ne_true_of_eq_false hr)
    exact exists_step_of_ready ⟨hr, hi.legal⟩ ht

/-! ## What an operation can write (R158, R50) -/

/-- The state an operation may leave after `s`: an update of the registers of its engine, of the word of the write port
where the operation stores one, and of nothing else. -/
inductive OwnedWrite (i : Instr) (s : State) : State → Prop where
  | adc (hf : i.format = .asel ∨ i.format = .adcFrame) (a : AdcRegs) : OwnedWrite i s (s.setAdc a)
  | seq (hf : i.format = .qsel) (q : SeqRegs) : OwnedWrite i s (s.setSeq q)
  | advance (hi : i = .seqAdvance) (q : SeqRegs) : OwnedWrite i s ((s.setSeq q).setMem (memAfterWrite s))
  | store (hi : i = .bufWrite) : OwnedWrite i s (s.setMem (memAfterWrite s))
  | nothing (hf : i.format = .wsel ∨ i.format = .rsel) : OwnedWrite i s s
  | dmp (hf : i.format = .dsel ∨ ∃ p, i.format = .dumpByte p) (d : DmpRegs) : OwnedWrite i s (s.setDmp d)

/-- A wire-format row that answers a next state has written its effect; `h` names its arm of `exec`. -/
theorem eq_of_exec_wire {op : Instr} {s t : State} {here : Bool} {eff : State → State}
    (h : exec op s = performAt here s eff) (ht : exec op s = .next t) : t = eff s :=
  ((performAt_next_iff here s t eff).1 (h.symm.trans ht)).2.2.2

/-- R158: whatever an operation answers is a write its engine owns. -/
theorem ownedWrite_of_exec {i : Instr} {s t : State} (h : exec i s = .next t) : OwnedWrite i s t := by
  cases i with
  | adcHold | adcStart | adcShift | adcDoneRestart | adcDoneStop =>
    obtain rfl := eq_of_exec (eff := adcRun _ _) rfl h
    exact .adc (.inl rfl) _
  | adcCapture | adcCaptureRestart | adcCaptureStop =>
    obtain rfl := eq_of_exec (eff := adcLatch (srNext s) _ _) rfl h
    exact .adc (.inl rfl) _
  | wireAdcFrame lead data =>
    obtain rfl := eq_of_exec_wire (eff := adcLatch _ _ _) rfl h
    exact .adc (.inr rfl) _
  | seqIdle | seqTrigger | seqExposeWait | seqEolTick | seqEolExit =>
    obtain rfl := eq_of_exec (eff := seqMove _ _ _) rfl h
    exact .seq rfl _
  | seqAdvance =>
    obtain rfl := eq_of_exec (exec_seqAdvance_eq s) h
    exact .advance rfl _
  | bufWrite =>
    obtain rfl := eq_of_exec (eff := fun s => s.setMem (memAfterWrite s)) rfl h
    exact .store rfl
  | bufNowrite =>
    obtain rfl := eq_of_exec (eff := fun s => s) rfl h
    exact .nothing (.inl rfl)
  | bufReadHi | bufReadLo =>
    obtain rfl := eq_of_exec (eff := fun s => s) rfl h
    exact .nothing (.inr rfl)
  | dmpIdle | dmpWaitHold =>
    obtain rfl := eq_of_exec (eff := fun s => s) rfl h
    exact .dmp (.inl rfl) t.dmp
  | dmpTrigger =>
    obtain rfl := eq_of_exec
      (eff := fun s => s.setDmp { s.dmp with state := .sync, wordIdx := 0, byteIdx := 0, lastByteSent := false }) rfl h
    exact .dmp (.inl rfl) _
  | dmpSync | dmpSendHi | dmpSendLo | dmpSendLast =>
    obtain rfl := eq_of_exec (eff := dmpLoad _ _ _ _) rfl h
    exact .dmp (.inl rfl) _
  | dmpAcceptNext | dmpAcceptLast | dmpDone =>
    obtain rfl := eq_of_exec (eff := dmpGo _) rfl h
    exact .dmp (.inl rfl) _
  | wireDumpSync | wireDumpHi | wireDumpLo =>
    obtain rfl := eq_of_exec_wire (eff := dmpLoad _ _ _ _) rfl h
    exact .dmp (.inr ⟨_, rfl⟩) _

namespace OwnedWrite
variable {i : Instr} {s t : State}

/-- No operation changes a parameter, a port, the stimulus or the number of the cycle. -/
theorem surroundings (h : OwnedWrite i s t) : t.cfg = s.cfg ∧ t.inp = s.inp ∧ t.stim = s.stim ∧ t.cycle = s.cycle := by
  cases h <;> exact ⟨rfl, rfl, rfl, rfl⟩

theorem adc_eq (h : OwnedWrite i s t) (hop : i.format ≠ .asel) (hframe : i.format ≠ .adcFrame) : t.adc = s.adc := by
  cases h with
  | adc hf => exact (hf.elim hop hframe).elim
  | _ => rfl

theorem seq_eq (h : OwnedWrite i s t) (hop : i.format ≠ .qsel) : t.seq = s.seq := by
  cases h with
  | seq hf => exact absurd hf hop
  | advance hi => exact absurd (hi ▸ rfl) hop
  | _ => rfl

theorem dmp_eq (h : OwnedWrite i s t) (hop : i.format ≠ .dsel) (hbyte : ∀ p, i.format ≠ .dumpByte p) :
    t.dmp = s.dmp := by
  cases h with
  | dmp hf => exact (hf.elim hop fun ⟨p, hp⟩ => hbyte p hp).elim
  | _ => rfl

/-- The LineBuffer is as before, or as the write port leaves it after one of the two operations that store a word. -/
theorem mem_cases (h : OwnedWrite i s t) :
    t.mem = s.mem ∨ ((i = .bufWrite ∨ i = .seqAdvance) ∧ t.mem = memAfterWrite s) := by
  cases h with
  | advance hi => exact .inr ⟨.inr hi, rfl⟩
  | store hi => exact .inr ⟨.inl hi, rfl⟩
  | _ => exact .inl rfl

theorem mem_eq (h : OwnedWrite i s t) (hwrite : i ≠ .bufWrite) (hadvance : i ≠ .seqAdvance) : t.mem = s.mem := by
  obtain hmem | ⟨hi, -⟩ := h.mem_cases
  · exact hmem
  · exact (hi.elim hwrite hadvance).elim

/-- A byte outside the word of the write port is as before (R49). -/
theorem readByte_eq (h : OwnedWrite i s t) (hm : Memory.wf s.mem = true) {a : Nat} (hhi : a ≠ 2 * (wrAddr s).toNat)
    (hlo : a ≠ 2 * (wrAddr s).toNat + 1) : readByte t.mem a = readByte s.mem a := by
  obtain hmem | ⟨-, hmem⟩ := h.mem_cases
  · rw [hmem]
  · rw [hmem, readByte_memAfterWrite_of_ne hm hhi hlo]

end OwnedWrite

/-- Settles O40: the answer of an operation is an owned write, which keeps the rest. -/
theorem operationsWriteOnlyWhatTheirEngineOwns : Obligations.OperationsWriteOnlyWhatTheirEngineOwns := by
  intro i s t h hm
  have hw := ownedWrite_of_exec h
  obtain ⟨hcfg, hinp, hstim, hcycle⟩ := hw.surroundings
  refine ⟨hcfg, hinp, hstim, hcycle, hw.adc_eq, hw.seq_eq, fun hf => ?_, fun hwrite hadvance a => ?_,
    fun _ => hw.readByte_eq hm⟩
  · rcases hf with hf | hf | hf | hf | hf <;> exact hw.dmp_eq (by simp [hf]) (by simp [hf])
  · rw [hw.mem_eq hwrite hadvance]

/-! ## The quiescent core (R165) -/

/-- ADC.HOLD in an idle sampler without a pulse changes `sr` only (R81). -/
theorem adcNext_of_quiet {v : Variant} {a : AdcRegs} (hl : adcLegal v a = true) (hs : a.state = .idle)
    (hv : a.valid = false) (bit : Bool) : Tables.adcNext v false bit a = { a with sr := shiftIn a.sr bit } := by
  have hphase := phase_of_idle hl hs
  obtain ⟨st, ph, sr, sample, valid⟩ := a
  cases hs
  cases hv
  cases hphase
  rfl

/-- SEQ.IDLE without a latch holds everything (R100). -/
theorem seqNext_of_quiet {q : SeqRegs} (hp : q.pix = 0) (hlatch : q.trigLatch = false) (valid : Bool) (tau : Nat) :
    Tables.seqNext false valid tau q = q := by
  rw [Tables.seqNext, if_pos hp, if_neg Bool.false_ne_true, ← hlatch]

/-- DMP.IDLE holds everything (R130). -/
theorem dmpNext_of_quiet {d : DmpRegs} (hs : d.state = .idle) (sync : Byte) (ready : Bool) (word : Sample) :
    Tables.dmpNext sync false ready word d = d := by
  simp [Tables.dmpNext, hs]

/-- Settles O52: each engine takes the idle row of its table, and the write port is not enabled at `pix = 0`. -/
theorem quiescentCoreOnlyShifts : Obligations.QuiescentCoreOnlyShifts := by
  intro s hi hq hr hscan hdump
  obtain ⟨hidle, hvalid, hpix, hlatch, hdmp⟩ := (quiescent_iff s).1 hq
  have hconv : convert s = false := convert_eq_false (not_exposing_of_zero hpix)
  have hadc' : (Tables.coreNext s).adc = { s.adc with sr := shiftIn s.adc.sr s.inp.sdata } := by
    rw [← adcNext_of_quiet ((legal_iff s).1 hi.legal).1 hidle hvalid, ← hconv, Tables.coreNext, tick_adc, convert]
  have hseq' : (Tables.coreNext s).seq = s.seq := by
    rw [Tables.coreNext, tick_seq, hscan, seqNext_of_quiet hpix hlatch]
  have hmem' : (Tables.coreNext s).mem = s.mem := by
    rw [Tables.coreNext, tick_mem, memNext_of_zero hpix]
  have hdmp' : (Tables.coreNext s).dmp = s.dmp := by
    rw [Tables.coreNext, tick_dmp, hdump, dmpNext_of_quiet hdmp]
  have hq' : quiescent (Tables.coreNext s) = true := by
    rw [quiescent_iff, hadc', hseq', hdmp']
    exact ⟨hidle, hvalid, hpix, hlatch, hdmp⟩
  exact ⟨_, step_eq_coreNext hi hr (cfgTau_of_ne (by simp [hpix])), hseq', hmem', hdmp', hq', hadc'⟩

end Sys2Proof.Machine
end

section
/-! Reset (70_reset_and_hazards.md): the first cycle after it (R172). -/

namespace Sys2Proof.Machine

/-- A reset cycle leaves a state that keeps R32, whatever it was given (R33, R170). -/
theorem legal_after_reset (s : State) : legal (tick (resetEdge s)) = true := by
  rw [legal_iff, tick_cfg, tick_adc, tick_seq, tick_dmp]
  exact ⟨(adcInv_reset _ _ _).legal, rfl, rfl⟩

/-- A reset cycle leaves a quiescent core (R165, R170). -/
theorem quiescent_after_reset (s : State) : quiescent (tick (resetEdge s)) = true := by
  rw [quiescent_iff, tick_adc, tick_seq, tick_dmp]
  exact ⟨rfl, rfl, rfl, rfl, rfl⟩

/-- A quiescent core with the read side at a high byte performs the idle operations, or those of the triggers. -/
theorem coreOps_of_quiescent {s : State} (hq : quiescent s = true) (hb : s.dmp.byteIdx = 0) : Tables.coreOps s =
    { adc := .adcHold, seq := if s.inp.scanTrigger = true then .seqTrigger else .seqIdle,
      wr := .bufNowrite, rd := .bufReadHi,
      dmp := if s.inp.dumpTrigger = true then .dmpTrigger else .dmpIdle } := by
  obtain ⟨hidle, hvalid, hpix, -, hdmp⟩ := (quiescent_iff s).1 hq
  simp [Tables.coreOps, Tables.adcOp, Tables.wrOp, Tables.rdOp, Tables.dmpOp, seqOp_of_zero hpix, hidle, hvalid, hpix, hb,
    hdmp]

/-- Settles O33: the reset edge leaves a quiescent core that keeps R32, whose first cycle selects from the ports alone. -/
theorem firstCycleAfterReset : Obligations.FirstCycleAfterReset := by
  intro s hr
  have hq := quiescent_after_reset s
  obtain ⟨hcs, hvalid, hstart, hclk, hsink, hdone, -, -⟩ := outputs_of_quiescent hq
  have ht : CfgTau (tick (resetEdge s)) := cfgTau_of_ne (by simp)
  have hops := coreOps_of_quiescent hq (by rw [tick_dmp]; rfl)
  exact ⟨_, step_of_reset hr, hcs, hvalid, hstart, hclk, hsink, hdone, hq,
    (fetch_eq_coreOps (legal_after_reset s) ht).trans (congrArg _ hops)⟩

end Sys2Proof.Machine
end

section
/-! Infinite runs (R165): every cycle keeps the invariant, and the registers of the next one are those of the reset edge or
of the transition tables. -/

namespace Sys2Proof.Machine

/-- The invariant says nothing of the inputs to come. -/
theorem inv_withStim {s : State} (h : Inv s) (l : List Inputs) : Inv { s with stim := l } :=
  (inv_iff _).2 ((inv_iff s).1 h)

theorem DrivenRun.inv {r : Nat → State} (hd : DrivenRun r) (h0 : Inv (r 0)) (t : Nat) : Inv (r t) := by
  induction t with
  | zero => exact h0
  | succ t ih =>
    obtain ⟨i, hstep⟩ := hd t
    exact everyStepKeepsTheInvariant _ _ (inv_withStim ih [i]) hstep

/-- `t` has the registers that the transition tables give after a cycle in `s` (R206 to R208). -/
structure TableCycle (s t : State) : Prop where
  adc : t.adc = Tables.adcNext s.cfg.adcVariant (convert s) s.inp.sdata s.adc
  seq : t.seq = Tables.seqNext s.inp.scanTrigger s.adc.valid s.inp.tau s.seq
  dmp : t.dmp = Tables.dmpNext s.cfg.syncByte s.inp.dumpTrigger s.inp.sinkReady (readWord s.mem s.dmp.wordIdx) s.dmp
  cfg : t.cfg = s.cfg

theorem tableCycle_of_step {s t : State} (hi : Inv s) (hr : s.inp.rst = false) (h : step s = .next t) :
    TableCycle s t := by
  obtain ⟨hrst, -⟩ | ⟨-, ops, hf, -⟩ := (step_next_iff s t).1 h
  · simp [hr] at hrst
  rw [step_eq_coreNext hi hr (cfgTau_of_fetch hf)] at h
  cases h
  exact ⟨tick_adc _, tick_seq _, tick_dmp _, tick_cfg _⟩

theorem quiescent_of_reset_step {s t : State} (hr : s.inp.rst = true) (h : step s = .next t) : quiescent t = true := by
  rw [step_of_reset hr] at h
  cases h
  exact quiescent_after_reset s

/-- A cycle of a run without reset. -/
theorem DrivenRun.tableCycle {r : Nat → State} (hd : DrivenRun r) {t : Nat} (hi : Inv (r t))
    (hr : (r t).inp.rst = false) : TableCycle (r t) (r (t + 1)) := by
  obtain ⟨i, hstep⟩ := hd t
  obtain ⟨hadc, hseq, hdmp, hcfg⟩ := tableCycle_of_step (inv_withStim hi [i]) hr hstep
  exact ⟨hadc, hseq, hdmp, hcfg⟩

/-- A cycle of a run with reset (R170). -/
theorem DrivenRun.quiescent_of_reset {r : Nat → State} (hd : DrivenRun r) {t : Nat} (hr : (r t).inp.rst = true) :
    quiescent (r (t + 1)) = true := by
  obtain ⟨i, hstep⟩ := hd t
  exact quiescent_of_reset_step (s := { r t with stim := [i] }) hr hstep

end Sys2Proof.Machine
end

section
/-! Liveness of a dump (R187): with a live sink (SINK-LIVE) every byte offered is taken, and the frame runs out of bytes. -/

namespace Sys2Proof.Machine

/-- The number of bytes a frame under way has still to load: those from the cursor on, until the latch is set (R62, R135). -/
def bytesLeft (d : DmpRegs) : Nat :=
  if d.lastByteSent = true then 0 else 256 - (2 * d.wordIdx.toNat + d.byteIdx.toNat)

/-- A SEND loads one byte of those left, and goes to WAIT (R133 to R135). -/
theorem dmpNext_of_send {d : DmpRegs} (hs : d.state = .send) (hlast : d.lastByteSent = false) (sync : Byte)
    (dump ready : Bool) (word : Sample) :
    (Tables.dmpNext sync dump ready word d).state = .wait ∧
      bytesLeft (Tables.dmpNext sync dump ready word d) < bytesLeft d := by
  have hlt := d.wordIdx.isLt
  have hleft : bytesLeft d = 256 - (2 * d.wordIdx.toNat + d.byteIdx.toNat) := if_neg (by simp [hlast])
  obtain hb | hb := bit_cases d.byteIdx
  · have hless : 256 - (2 * d.wordIdx.toNat + 1) < 256 - (2 * d.wordIdx.toNat + 0) := by omega
    rw [dmpNext_of_sendHi hs hb, hleft, hb]
    exact ⟨rfl, by simpa [bytesLeft, hlast] using hless⟩
  rw [dmpNext_of_sendLo hs hb, hlast, Bool.or_false, hleft, hb]
  by_cases h127 : d.wordIdx = 127
  · exact ⟨rfl, by simp [bytesLeft, h127]⟩
  · have hless : 256 - (2 * (d.wordIdx + 1).toNat + 0) < 256 - (2 * d.wordIdx.toNat + 1) := by
      rw [toNat_wordIdx_add_one h127]
      omega
    rw [decide_eq_false h127]
    exact ⟨rfl, hless⟩

/-- A run from the invariant without reset whose sink is live. -/
structure LiveRun (r : Nat → State) : Prop where
  driven : DrivenRun r
  start : Inv (r 0)
  rst : ∀ t, (r t).inp.rst = false
  live : SinkLive r

namespace LiveRun
variable {r : Nat → State} {t : Nat}

theorem inv (h : LiveRun r) (t : Nat) : Inv (r t) := h.driven.inv h.start t

theorem dmp_next (h : LiveRun r) (t : Nat) : (r (t + 1)).dmp =
    Tables.dmpNext (r t).cfg.syncByte (r t).inp.dumpTrigger (r t).inp.sinkReady
      (readWord (r t).mem (r t).dmp.wordIdx) (r t).dmp :=
  (h.driven.tableCycle (h.inv t) (h.rst t)).dmp

/-- A byte offered is taken in some cycle, the dumper's registers being as they were: otherwise it would be offered for ever
(R144), and a live sink takes it. -/
theorem accepted_of_wait (h : LiveRun r) (hw : (r t).dmp.state = .wait) :
    ∃ u, (r u).dmp = (r t).dmp ∧ (r u).inp.sinkReady = true := by
  by_contra hnever
  have hold : ∀ u, t ≤ u → (r u).dmp = (r t).dmp := by
    refine Nat.le_induction rfl fun u _ ih => ?_
    have hready : (r u).inp.sinkReady = false := Bool.eq_false_of_not_eq_true fun hready => hnever ⟨u, ih, hready⟩
    rw [h.dmp_next, hready, dmpNext_of_hold (ih ▸ hw), ih]
  obtain ⟨u, hu, hready⟩ := h.live t fun u hu => by rw [sinkValid, hold u hu, hw]; rfl
  exact hnever ⟨u, hold u hu.le, hready⟩

/-- WAIT is left for DONE or SEND, by the latch (R137, R138). -/
theorem exists_after_wait (h : LiveRun r) (hw : (r t).dmp.state = .wait) :
    ∃ u, (r u).dmp = { (r t).dmp with state := if (r t).dmp.lastByteSent = true then .done else .send } := by
  obtain ⟨u, hdmp, hready⟩ := h.accepted_of_wait hw
  exact ⟨u + 1, by rw [h.dmp_next, hready, dmpNext_of_accept (hdmp ▸ hw), hdmp]⟩

/-- From SEND the next cycle offers a byte, with one less to load. -/
theorem wait_after_send (h : LiveRun r) (hs : (r t).dmp.state = .send) :
    (r (t + 1)).dmp.state = .wait ∧ bytesLeft (r (t + 1)).dmp < bytesLeft (r t).dmp := by
  obtain ⟨-, -, hdmp, -⟩ := (inv_iff (r t)).1 (h.inv t)
  rw [h.dmp_next]
  exact dmpNext_of_send hs (last_clear_of_send hdmp hs) _ _ _ _

/-- From WAIT the dump ends, by induction on the bytes left to load. -/
theorem done_of_wait (h : LiveRun r) (hw : (r t).dmp.state = .wait) : ∃ u, (r u).dmp.state = .done := by
  induction hn : bytesLeft (r t).dmp using Nat.strong_induction_on generalizing t with
  | h n ih =>
    obtain ⟨u, hdmp⟩ := h.exists_after_wait hw
    by_cases hlast : (r t).dmp.lastByteSent = true
    · exact ⟨u, by rw [hdmp, if_pos hlast]⟩
    · rw [if_neg hlast] at hdmp
      obtain ⟨hwait, hless⟩ := h.wait_after_send (t := u) (by rw [hdmp])
      have hleft : bytesLeft (r u).dmp = n := by rw [hdmp, ← hn]; rfl
      exact ih _ (hleft ▸ hless) hwait rfl

/-- Every state of a dump under way leads to WAIT or is DONE. -/
theorem done_of_busy (h : LiveRun r) (hb : (r t).dmp.state ≠ .idle) : ∃ u, (r u).dmp.state = .done := by
  cases hs : (r t).dmp.state with
  | idle => exact absurd hs hb
  | sync => exact h.done_of_wait (t := t + 1) (by rw [h.dmp_next]; simp only [Tables.dmpNext, hs])
  | send => exact h.done_of_wait (h.wait_after_send hs).1
  | wait => exact h.done_of_wait hs
  | done => exact ⟨t, hs⟩

end LiveRun

/-- Settles O59: `done` is 1 in the DONE state to which a dump under way comes. -/
theorem everyDumpEndsWhereTheSinkIsLive : Obligations.EveryDumpEndsWhereTheSinkIsLive := by
  intro r hdriven hinv hrst hlive hbusy
  obtain ⟨t, hdone⟩ := LiveRun.done_of_busy ⟨hdriven, hinv, hrst, hlive⟩ hbusy
  exact ⟨t, by simp [outputs_eq, hdone]⟩

end Sys2Proof.Machine
end

section
/-! The straggler (R183): under TAU-MIN the conversion that outlives its scan is over, but for its pulse, when the next scan
starts. -/

namespace Sys2Proof.Machine

/-! ## The sampler's edge, by `convert` -/

/-- With `convert = 1` the sampler does not go to IDLE (R206). -/
theorem adcNext_ne_idle (v : Variant) (bit : Bool) (a : AdcRegs) : (Tables.adcNext v true bit a).state ≠ .idle := by
  unfold Tables.adcNext
  cases hs : a.state with
  | idle | done => nofun
  | converting =>
    by_cases hp : a.phase.toNat < 15
    · simp [hp]
    · cases v <;> simp [hp]

/-- With `convert = 0` a conversion is under way only where one was, a bit time before (R83). -/
theorem shift_of_adcNext_converting {v : Variant} {bit : Bool} {a : AdcRegs}
    (h : (Tables.adcNext v false bit a).state = .converting) :
    a.state = .converting ∧ a.phase.toNat < 15 ∧ (Tables.adcNext v false bit a).phase.toNat = a.phase.toNat + 1 := by
  cases hs : a.state with
  | idle | done => simp [Tables.adcNext, hs] at h
  | converting =>
    by_cases hp : a.phase.toNat < 15
    · rw [adcNext_converting_of_lt hs hp]
      exact ⟨rfl, hp, toNat_phase_add_one hp⟩
    · cases v <;> simp [Tables.adcNext, hs, hp] at h

/-- With `convert = 0` a sampler that is not CONVERTING comes to rest without a pulse (R81, R88). -/
theorem adcNext_of_not_converting {a : AdcRegs} (hs : a.state ≠ .converting) (v : Variant) (bit : Bool) :
    (Tables.adcNext v false bit a).state = .idle ∧ (Tables.adcNext v false bit a).valid = false := by
  cases h : a.state with
  | converting => exact absurd h hs
  | idle | done => simp [Tables.adcNext, h]

/-- The cycle of a pulse is the first of the window `W` of the next conversion: `W - 1` cycles after it comes the next pulse,
in either variant (R91). -/
theorem phase_after_pulse {c : Config} {a : AdcRegs} (hl : adcLegal c.adcVariant a = true) (hv : a.valid = true)
    (hs : a.state ≠ .idle) (bit : Bool) :
    (Tables.adcNext c.adcVariant true bit a).phase.toNat + c.window = 17 := by
  cases h : a.state with
  | idle => exact absurd h hs
  | converting =>
    obtain ⟨hva, hp⟩ := variant_a_of_valid hl hv (by simp [h])
    rw [adcNext_converting_of_lt h (by simp [hp])]
    simp [hp, Config.window, Config.tSettle, Config.tCs, hva]
  | done =>
    rw [adcNext_done h]
    simp [Config.window, Config.tSettle, Config.tCs, variant_of_done hl h]

/-! ## The sequencer's edge -/

theorem seqNext_pix_of_trigger {q : SeqRegs} (h : q.pix = 0) (valid : Bool) (tau : Nat) :
    (Tables.seqNext true valid tau q).pix = 1 := by
  rw [Tables.seqNext, if_pos h]
  rfl

/-- SEQ.ADVANCE in R207, whole. -/
theorem seqNext_of_advance {q : SeqRegs} (h0 : q.pix ≠ 0) (h128 : q.pix ≠ 128) (scan : Bool) (tau : Nat) :
    Tables.seqNext scan true tau q = { pix := q.pix + 1, tauCnt := q.tauCnt, trigLatch := false } := by
  rw [Tables.seqNext, if_neg h0, if_neg h128]
  rfl

/-- EXPOSING is left for END_OF_LINE only, in the cycle of a pulse, with `tau_cnt` as it was (R102, R103). -/
theorem seqNext_of_exposing {q : SeqRegs} (hlo : 1 ≤ q.pix.toNat) (hhi : q.pix.toNat ≤ 127) (scan valid : Bool)
    (tau : Nat) : (Tables.seqNext scan valid tau q).pix ≠ 0 ∧
      ((Tables.seqNext scan valid tau q).pix = 128 →
        valid = true ∧ (Tables.seqNext scan valid tau q).tauCnt = q.tauCnt) := by
  have h0 : q.pix ≠ 0 := by rw [ne_eq, pix_eq_zero_iff]; omega
  have h128 : q.pix ≠ 128 := by rw [ne_eq, pix_eq_128_iff]; omega
  cases valid with
  | false =>
    rw [seqNext_pix_of_wait hlo hhi]
    exact ⟨h0, fun h => absurd h h128⟩
  | true =>
    rw [seqNext_of_advance h0 h128]
    refine ⟨?_, fun _ => ⟨rfl, rfl⟩⟩
    rw [ne_eq, pix_eq_zero_iff, toNat_pix_add_one hhi]
    omega

/-! ## The invariant of a run that meets TAU-MIN -/

/-- The second way to meet TAU-MIN, from a cycle `b` on: while `pix` stays 0, no trigger is given to a sampler that is
CONVERTING. -/
def TriggerHeldOff (r : Nat → State) (b : Nat) : Prop :=
  ∀ t, b ≤ t → (∀ u, b ≤ u → u ≤ t → (r u).seq.pix = 0) → (r t).adc.state = .converting → (r t).inp.scanTrigger = false

theorem TriggerHeldOff.now {r : Nat → State} {b : Nat} (h : TriggerHeldOff r b) (hb : (r b).seq.pix = 0)
    (hc : (r b).adc.state = .converting) : (r b).inp.scanTrigger = false := by
  refine h b (Nat.le_refl b) (fun u hlo hhi => ?_) hc
  rw [Nat.le_antisymm hhi hlo, hb]

theorem TriggerHeldOff.succ {r : Nat → State} {b : Nat} (h : TriggerHeldOff r b) (hb : (r b).seq.pix = 0) :
    TriggerHeldOff r (b + 1) := by
  intro t ht hzero
  refine h t (Nat.le_of_succ_le ht) fun u hlo hhi => ?_
  obtain rfl | hlt := Nat.eq_or_lt_of_le hlo
  · exact hb
  · exact hzero u hlt hhi

/-- Where a straggler can be, zone by zone. -/
structure StragglerBounded (r : Nat → State) (t : Nat) : Prop where
  /-- Past END_OF_LINE, only where the environment holds the trigger back. -/
  idle : (r t).seq.pix = 0 → (r t).adc.state = .converting → TriggerHeldOff r t
  /-- A pulse of a scan restarts the sampler, whose conversion never began before the scan. -/
  exposing : Exposing (r t) → (r t).adc.valid = true → (r t).adc.state ≠ .idle
  /-- In END_OF_LINE `tau_cnt` keeps pace with the bit times, so the pulse comes with `tau_cnt = W - 1`. -/
  endOfLine : (r t).seq.pix = 128 → (r t).adc.state = .converting →
    (r t).adc.phase.toNat + (r t).cfg.window = (r t).seq.tauCnt + 17

theorem stragglerBounded_of_quiescent {r : Nat → State} {t : Nat} (h : quiescent (r t) = true) :
    StragglerBounded r t := by
  obtain ⟨hidle, hvalid, -⟩ := (quiescent_iff _).1 h
  exact ⟨fun _ hc => by simp [hidle] at hc, fun _ hv => by simp [hvalid] at hv, fun _ hc => by simp [hidle] at hc⟩

/-- Outside EXPOSING the sampler's edge is that of `convert = 0`. -/
theorem TableCycle.adc_of_not_exposing {s t : State} (h : TableCycle s t) (he : ¬ Exposing s) :
    t.adc = Tables.adcNext s.cfg.adcVariant false s.inp.sdata s.adc := by
  rw [h.adc, convert_eq_false he]

theorem TableCycle.adc_of_exposing {s t : State} (h : TableCycle s t) (he : Exposing s) :
    t.adc = Tables.adcNext s.cfg.adcVariant true s.inp.sdata s.adc := by
  rw [h.adc, convert_eq_true he]

/-- A cycle that performs SEQ.TRIGGER with no conversion under way starts the scan with a sampler at rest. -/
theorem TableCycle.scan_starts {s t : State} (h : TableCycle s t) (hpix : s.seq.pix = 0)
    (hscan : s.inp.scanTrigger = true) (hc : s.adc.state ≠ .converting) :
    t.seq.pix = 1 ∧ t.adc.state = .idle ∧ t.adc.valid = false := by
  rw [h.adc_of_not_exposing (not_exposing_of_zero hpix), h.seq, hscan]
  exact ⟨seqNext_pix_of_trigger hpix _ _, adcNext_of_not_converting hc _ _⟩

namespace StragglerBounded
variable {r : Nat → State} {t : Nat}

/-- No conversion is under way in a cycle that triggers a scan. -/
theorem not_converting_of_trigger (h : StragglerBounded r t) (hpix : (r t).seq.pix = 0)
    (hscan : (r t).inp.scanTrigger = true) : (r t).adc.state ≠ .converting := by
  intro hc
  have hheld := (h.idle hpix hc).now hpix hc
  simp [hscan] at hheld

theorem succ_of_zero (h : StragglerBounded r t) (hcyc : TableCycle (r t) (r (t + 1))) (hpix : (r t).seq.pix = 0) :
    StragglerBounded r (t + 1) := by
  by_cases hscan : (r t).inp.scanTrigger = true
  · obtain ⟨hpix', hidle, hvalid⟩ := hcyc.scan_starts hpix hscan (h.not_converting_of_trigger hpix hscan)
    exact ⟨fun hp => by simp [hpix'] at hp, fun _ hv => by simp [hvalid] at hv, fun hp => by simp [hpix'] at hp⟩
  · have hpix' : (r (t + 1)).seq.pix = 0 := by
      rw [hcyc.seq, Bool.eq_false_of_not_eq_true hscan, seqNext_pix_of_idle hpix]
    refine ⟨fun _ hc => ?_, fun he => absurd he (not_exposing_of_zero hpix'), fun hp => by simp [hpix'] at hp⟩
    rw [hcyc.adc_of_not_exposing (not_exposing_of_zero hpix)] at hc
    obtain ⟨hconv, -, -⟩ := shift_of_adcNext_converting hc
    exact (h.idle hpix hconv).succ hpix

theorem succ_of_exposing (h : StragglerBounded r t) (hcyc : TableCycle (r t) (r (t + 1))) (hi : Inv (r t))
    (he : Exposing (r t)) : StragglerBounded r (t + 1) := by
  obtain ⟨hne, hlast⟩ := seqNext_of_exposing he.1 he.2 (r t).inp.scanTrigger (r t).adc.valid (r t).inp.tau
  rw [← hcyc.seq] at hne hlast
  have hadc := hcyc.adc_of_exposing he
  refine ⟨fun hp => absurd hp hne, fun _ _ => ?_, fun hp _ => ?_⟩
  · rw [hadc]
    exact adcNext_ne_idle _ _ _
  · obtain ⟨hvalid, hcnt⟩ := hlast hp
    rw [hadc, hcyc.cfg, hcnt, hi.tauCnt_exposing he]
    exact phase_after_pulse ((legal_iff _).1 hi.legal).1 hvalid (h.exposing he hvalid) _

/-- The exit of END_OF_LINE finds the straggler's last bit time over, or TAU-MIN holds the trigger back. -/
theorem succ_of_endOfLine (h : StragglerBounded r t) (hcyc : TableCycle (r t) (r (t + 1))) (htau : TauMin r)
    (hpix : (r t).seq.pix = 128) : StragglerBounded r (t + 1) := by
  have hshift : (r (t + 1)).adc.state = .converting → (r t).adc.state = .converting ∧ (r t).adc.phase.toNat < 15 ∧
      (r (t + 1)).adc.phase.toNat = (r t).adc.phase.toNat + 1 := by
    rw [hcyc.adc_of_not_exposing (not_exposing_of_128 hpix)]
    exact shift_of_adcNext_converting
  by_cases htick : (r t).seq.tauCnt + 1 < (r t).inp.tau
  · have hseq := hcyc.seq.trans (seqNext_of_tick hpix htick _ _)
    refine ⟨fun hp => ?_, fun he => ?_, fun _ hc => ?_⟩
    · simp [hseq] at hp
    · exact absurd he (not_exposing_of_128 (by rw [hseq]))
    · obtain ⟨hconv, -, hphase⟩ := hshift hc
      have hpace := h.endOfLine hpix hconv
      have hcnt : (r (t + 1)).seq.tauCnt = (r t).seq.tauCnt + 1 := by rw [hseq]
      rw [hcyc.cfg, hcnt, hphase]
      omega
  · have hseq := hcyc.seq.trans (seqNext_of_exit hpix (Nat.le_of_not_lt htick) _ _)
    have hpix' : (r (t + 1)).seq.pix = 0 := by rw [hseq]
    refine ⟨fun _ hc => ?_, fun he => absurd he (not_exposing_of_zero hpix'), fun hp => by simp [hpix'] at hp⟩
    obtain ⟨hconv, hlt, -⟩ := hshift hc
    have hpace := h.endOfLine hpix hconv
    -- `tau_cnt` has counted the whole stay, so its last cycle decides which way TAU-MIN is met
    have hstay : ∀ u, t ≤ u → u < t + 1 → (r u).seq.pix = 128 := fun u hlo hhi => by
      rw [Nat.le_antisymm (Nat.le_of_lt_succ hhi) hlo, hpix]
    obtain hlong | hheld := htau t (t + 1) (Nat.lt_succ_self t) hstay hpix'
    · have hwindow := hlong t (Nat.le_refl t) (Nat.lt_succ_self t)
      omega
    · exact hheld

end StragglerBounded

theorem stragglerBounded_of_tauMin {r : Nat → State} (hd : DrivenRun r) (h0 : Inv (r 0)) (hq : quiescent (r 0) = true)
    (htau : TauMin r) (t : Nat) : StragglerBounded r t := by
  induction t with
  | zero => exact stragglerBounded_of_quiescent hq
  | succ t ih =>
    have hi := hd.inv h0 t
    cases hr : (r t).inp.rst with
    | true => exact stragglerBounded_of_quiescent (hd.quiescent_of_reset hr)
    | false =>
      have hcyc := hd.tableCycle hi hr
      by_cases hzero : (r t).seq.pix = 0
      · exact ih.succ_of_zero hcyc hzero
      by_cases h128 : (r t).seq.pix = 128
      · exact ih.succ_of_endOfLine hcyc htau h128
      · exact ih.succ_of_exposing hcyc hi ((exposing_iff hi.legal).2 ⟨hzero, h128⟩)

/-- Settles O60: at every trigger no conversion is under way, so ADC.HOLD or the straggler's DONE or pulse ends in IDLE. -/
theorem noStragglerLeaksUnderTauMin : Obligations.NoStragglerLeaksUnderTauMin := by
  intro r hd h0 hq htau t hr hpix hscan
  have hbound := stragglerBounded_of_tauMin hd h0 hq htau t
  exact (hd.tableCycle (hd.inv h0 t) hr).scan_starts hpix hscan (hbound.not_converting_of_trigger hpix hscan)

end Sys2Proof.Machine
end
